-- ==== Sys2Proof/Word.lean ====
section
/-! DEFINITION. The word types of the machine (R4, R11, R41, R42, R55). -/

namespace Sys2Proof

/-- One byte of memory. -/
abbrev Byte := BitVec 8

/-- A 64-bit word: a general-purpose register, the program counter, the value of the
identification register (R4, R41, R42). -/
abbrev Word := BitVec 64

/-- A 32-bit A64 instruction word (R55). -/
abbrev InstrWord := BitVec 32

end Sys2Proof
end

