-- ==== Sys2Proof/Machine/Bits.lean ====
section
/-! DEFINITION. The notation of R10 and R11: slices, extensions, field extraction, and the byte
order of an instruction word. -/

namespace Sys2Proof.Machine

/-- `v[hi:lo]` (R10, R11): the bits of `v` from `hi` down to `lo` inclusive. -/
def slice {n : Nat} (v : BitVec n) (hi lo : Nat) : BitVec (hi - lo + 1) :=
  v.extractLsb hi lo

/-- `zext_N(v)` (R11). -/
def zext {n : Nat} (m : Nat) (v : BitVec n) : BitVec m := v.zeroExtend m

/-- `sext_N(v)` (R11), defined for completeness as the spec does: no rule uses it. -/
def sext {n : Nat} (m : Nat) (v : BitVec n) : BitVec m := v.signExtend m

/-- `Field(v, hi, lo)` (R74): logical shift right and mask, read as an unsigned number. -/
def field (v : Word) (hi lo : Nat) : Nat :=
  ((v >>> lo) &&& ((1#64 <<< (hi - lo + 1)) - 1#64)).toNat

/-- The four bytes of an instruction word in memory, least significant first (R59). -/
def wordBytes (w : InstrWord) : List Byte :=
  [slice w 7 0, slice w 15 8, slice w 23 16, slice w 31 24]

/-- The instruction word whose bytes at increasing addresses are `b0`, `b1`, `b2`, `b3` (R59). -/
def wordOfBytes (b0 b1 b2 b3 : Byte) : InstrWord :=
  b3 ++ b2 ++ b1 ++ b0

end Sys2Proof.Machine
end

