-- ==== Sys2Proof/Syntax.lean ====
section
/-! DEFINITION. The instructions: one constructor per row of spec/opcode_table.json. -/

namespace Sys2Proof

/-- The instructions of the opcode table. -/
inductive Instr where
  /-- `MRS <Xt>, ID_AA64MMFR1_EL1` (R63); `t` is the destination register number, 0 to 31, and 31
  names the zero register (R58). -/
  | mrs (t : Nat)
deriving DecidableEq, Repr

end Sys2Proof
end

