-- ==== Sys2Proof/WellFormed.lean ====
section
/-! DEFINITION. Which instruction terms are instructions. -/

namespace Sys2Proof

/-- The one operand check: `Rt` is an unsigned 5-bit register number, so `t` is 0 to 31 (R58, R63). -/
def Instr.wellFormed : Instr → Bool
  | .mrs t => decide (t ≤ 31)

end Sys2Proof
end

