-- ==== Sys2Proof/Decode.lean ====
section
/-! DEFINITION. The encoding of the accessor (R54 to R61): decoder, and after it the encoder. -/

namespace Sys2Proof

/-- A location of the System register encoding space (R45, R54). -/
structure SysRegCoord where
  op0 : BitVec 2
  op1 : BitVec 3
  crn : BitVec 4
  crm : BitVec 4
  op2 : BitVec 3
deriving DecidableEq, Repr

/-- The coordinates of `ID_AA64MMFR1_EL1` (R54). -/
def idMmfr1Coord : SysRegCoord :=
  { op0 := 0b11#2, op1 := 0b000#3, crn := 0b0000#4, crm := 0b0111#4, op2 := 0b001#3 }

/-- What the decoder makes of the bytes of an instruction (R57). -/
inductive Decoded where
  /-- An instruction of the opcode table. -/
  | accessor (i : Instr)
  /-- The write form of R60, with its `Rt`: no row of the opcode table, but the spec says what
  executing it does. -/
  | writeForm (t : Nat)
  /-- Any other word (R61): outside the spec. -/
  | outside (w : InstrWord)
  /-- Fewer than the four bytes of an instruction (R59). -/
  | truncated
deriving DecidableEq, Repr

/-- The 27 bits the opcode fixes (R56). -/
def opcodeMask : InstrWord := 0xFFFFFFE0#32

/-- The accessor's fixed bits (R56). -/
def accessorMatch : InstrWord := 0xD5380720#32

/-- The write form's fixed bits (R60). -/
def writeFormMatch : InstrWord := 0xD5180720#32

/-- `Rt`, bits [4:0] of the word (R55, R58). -/
def rtField (w : InstrWord) : Nat := (Machine.slice w 4 0).toNat

/-- R57: the decode of a 32-bit word, total, in three disjoint cases. -/
def decodeWord (w : InstrWord) : Decoded :=
  if w &&& opcodeMask = accessorMatch then .accessor (.mrs (rtField w))
  else if w &&& opcodeMask = writeFormMatch then .writeForm (rtField w)
  else .outside w

/-- The decoder over bytes at increasing addresses, least significant first (R59): it reads the
first four and rejects a shorter list by name. -/
def decodeBytes : List Byte → Decoded
  | b0 :: b1 :: b2 :: b3 :: _ => decodeWord (Machine.wordOfBytes b0 b1 b2 b3)
  | _ => .truncated

/-- The system-register move format of R55: the fixed bits, the direction `L`, the five coordinates
and `Rt`. -/
def sysMoveWord (l : BitVec 1) (c : SysRegCoord) (rt : BitVec 5) : InstrWord :=
  0b1101010100#10 ++ l ++ c.op0 ++ c.op1 ++ c.crn ++ c.crm ++ c.op2 ++ rt

/-- The word of an instruction, from the format of R55 and the coordinates of R54. -/
def encode : Instr → InstrWord
  | .mrs t => sysMoveWord 1#1 idMmfr1Coord (BitVec.ofNat 5 t)

/-- The bytes of an instruction as memory holds them (R59). -/
def encodeBytes (i : Instr) : List Byte := Machine.wordBytes (encode i)

/-- The word of the write form with `Rt = t` (R60): the same coordinates, direction `L = 0`. -/
def writeFormWord (t : Nat) : InstrWord :=
  sysMoveWord 0#1 idMmfr1Coord (BitVec.ofNat 5 t)

/-- The instruction among what a decode found, if it found one. -/
def Decoded.instr? : Decoded → Option Instr
  | .accessor i => some i
  | .writeForm _ | .outside _ | .truncated => none

/-- The instruction the decoder reads from the low `nbits` bits of `w`, every higher bit 0. -/
def decodeTableWord (nbits w : Nat) : Option Instr :=
  (decodeBytes (Machine.wordBytes (BitVec.ofNat 32 (w % 2 ^ nbits)))).instr?

end Sys2Proof
end

