-- ==== Sys2Proof/Config.lean ====
section
/-! DEFINITION. What an implementation fixes (R7, R8) and the free values. Every constant of the
machine is opaque: it has no body, so no proof can rest on a value of it. -/

namespace Sys2Proof.Config

/-- The architecture versions of R8. The source names 8.0, 8.1, 8.2, 8.6, 8.7, 8.8 and 8.9 (R1);
8.3, 8.4 and 8.5 complete the order (G13). -/
inductive ArchVer where
  | v8_0 | v8_1 | v8_2 | v8_3 | v8_4 | v8_5 | v8_6 | v8_7 | v8_8 | v8_9
deriving DecidableEq, Repr, Inhabited

/-- The parameters of one PE, constant for a run (R7, R8, R91). -/
structure Params where
  /-- `IDVAL`: the value every successful read of `ID_AA64MMFR1_EL1` returns (R7). -/
  idval : Word
  /-- `IsFeatureImplemented(FEAT_IDST)` (R8). -/
  haveIDST : Bool
  /-- "When FEAT_RAS is implemented" (R8). -/
  haveRAS : Bool
  /-- "If EL2 is implemented" (R8). -/
  haveEL2 : Bool
  /-- "if Advanced SIMD and floating-point is implemented" (R8). -/
  haveFP : Bool
  /-- The architecture version of the PE (R8). -/
  archVer : ArchVer
deriving DecidableEq, Repr

/-- `IDVAL` of this machine: OPEN (R7, D1). -/
opaque idval : Word

/-- `HaveIDST` of this machine: OPEN (R8, D16). -/
opaque haveIDST : Bool

/-- `HaveRAS` of this machine: OPEN (R8, D16). -/
opaque haveRAS : Bool

/-- `HaveEL2` of this machine: OPEN (R8, D16). -/
opaque haveEL2 : Bool

/-- `HaveFP` of this machine: OPEN (R8, D16). -/
opaque haveFP : Bool

/-- `ArchVer` of this machine: OPEN (R8, D5). -/
opaque archVer : ArchVer

/-- The parameters of this machine. Every meaning is written over an arbitrary `Params`; `exec` and
`step` run it on this one. -/
def params : Params :=
  { idval := idval, haveIDST := haveIDST, haveRAS := haveRAS, haveEL2 := haveEL2,
    haveFP := haveFP, archVer := archVer }

/-- FREE VALUE: the program counter after a completed instruction whose `pc + 4` does not fit in 64
bits. R42 leaves the wrap at the top of the address space open; the n-th draw of a run is
`pcPastTop n` (assumption log 3). -/
opaque pcPastTop : Nat → Word

end Sys2Proof.Config
end

