-- ==== Sys2Proof/Machine/State.lean ====
section
/-! DEFINITION. The state of the machine, the reasons a step can stop, and the state after reset. -/

namespace Sys2Proof.Machine

/-- The four Exception levels of `PSTATE.EL` (R37). -/
inductive EL where
  | el0 | el1 | el2 | el3
deriving DecidableEq, Repr

/-- Memory: (address, byte) pairs, in one canonical form (`Memory.wf`). -/
abbrev Memory := List Host.Cell

/-- The whole state. `ID_AA64MMFR1_EL1` itself is no field: R13 makes it a parameter of the machine
(`Config.idval`), not mutable state. -/
structure State where
  /-- X0 to X30 (R41). -/
  x : Vector Word 31
  /-- The program counter: the address of the instruction being executed (R42). -/
  pc : Word
  /-- `PSTATE.EL` (R37). -/
  el : EL
  /-- `EL2En`, the result of `EL2Enabled()` (R38). -/
  el2En : Bool
  /-- `HCR_EL2.TGE` (R39). -/
  hcrTge : BitVec 1
  /-- `HCR_EL2.TID3` (R40). -/
  hcrTid3 : BitVec 1
  /-- The memory the instruction words stand in (R46, R59, R93). -/
  mem : Memory
  /-- The MODEL's own field: how many free values the run has drawn (`Config.pcPastTop`). -/
  freeDraws : Nat
deriving DecidableEq, Repr

/-- The context inputs of one execution of the accessor (R9): what the surrounding PE may change
between two steps and no instruction of this spec writes. -/
structure Context where
  el : EL
  el2En : Bool
  hcrTge : BitVec 1
  hcrTid3 : BitVec 1
deriving DecidableEq, Repr

/-- The abnormal endings of a step (R12, R79). Each is terminal, names what happened, and holds the
state it leaves (R73, R82). -/
inductive Fault where
  /-- `Trap(target, code)`, the source's `AArch64.SystemAccessTrap(target, code)` (R75), raised by the
  accessor. SAFE: the machine stops where a PE goes on at the target level (R82). -/
  | systemAccessTrap (target : EL) (code : BitVec 6) (left : State)
  /-- `Undefined`, the source's `UNDEFINED` (R77), raised by the accessor and by the write form (R60).
  SAFE: the machine stops where a PE takes an exception (R82). -/
  | undefined (left : State)
deriving DecidableEq, Repr

/-- What the model gives no meaning. -/
inductive Refusal where
  /-- An instruction of the opcode table whose meaning is not written; no arm answers it. SAFE. -/
  | notModelled (mnemonic : String)
  /-- "not ID_AA64MMFR1_EL1 access" (R61): raised by `step` on any word that is neither the accessor
  nor its write form, and naming the word (R93). SAFE: nothing is claimed of it. -/
  | notAccessor (word : InstrWord)
  /-- No instruction word stands at `pc` (R46: the surrounding PE hands the word over; D20), raised by
  `step`. SAFE: nothing is claimed of such a run. -/
  | noInstructionWord (pc : Word)
  /-- An instruction term whose operand no encoding holds (R58), raised by `exec` on a term that is
  not well formed; no decoded word gives one. SAFE. -/
  | illFormed
deriving DecidableEq, Repr

/-- The machine right after reset. R44 and R91 specify no value for any of these fields, so every
value is the model's (assumption log 1, 2, 7, 9). -/
def State.reset : State :=
  { x := Vector.replicate 31 0#64
    pc := 0#64
    el := .el3
    el2En := false
    hcrTge := 0#1
    hcrTid3 := 0#1
    mem := []
    freeDraws := 0 }

end Sys2Proof.Machine
end

