-- ==== Sys2Proof/Machine/Ops.lean ====
section
/-! DEFINITION. The named operations over memory, registers and the program counter, and the two
ways an instruction ends abnormally. -/

namespace Sys2Proof.Machine

/-- The number of byte addresses: `pc` has 64 bits (R42). -/
def addressCount : Nat := 2 ^ 64

/-- What an unlisted address reads as: no value (assumption log 6). -/
def Memory.unlisted : Option Byte := none

/-- The byte listed for address `a`. -/
def Memory.lookup (a : Nat) : Memory → Option Byte
  | [] => Memory.unlisted
  | (k, b) :: rest => if a = k then some b else Memory.lookup a rest

/-- A read of one byte. An address outside the address space holds none. -/
def Memory.readByte (m : Memory) (a : Nat) : Option Byte :=
  if a < addressCount then Memory.lookup a m else none

/-- The list with `b` at address `a`, in the place that keeps addresses rising. -/
def Memory.insert (a : Nat) (b : Byte) : Memory → Memory
  | [] => [(a, b)]
  | (k, c) :: rest =>
    if a < k then (a, b) :: (k, c) :: rest
    else if a = k then (a, b) :: rest
    else (k, c) :: Memory.insert a b rest

/-- A write of one byte. An address outside the address space takes none. -/
def Memory.writeByte (m : Memory) (a : Nat) (b : Byte) : Memory :=
  if a < addressCount then Memory.insert a b m else m

/-- `MemRead(addr, n)` (R11): the `n` bytes from `addr` up, if each is there. -/
def Memory.readBytes (m : Memory) (a : Nat) : Nat → Option (List Byte)
  | 0 => some []
  | n + 1 =>
    match Memory.readByte m a, Memory.readBytes m (a + 1) n with
    | some b, some bs => some (b :: bs)
    | _, _ => none

/-- `MemWrite(addr, n, v)` (R11): the bytes of `v` from `addr` up. -/
def Memory.writeBytes (m : Memory) (a : Nat) : List Byte → Memory
  | [] => m
  | b :: bs => Memory.writeBytes (Memory.writeByte m a b) (a + 1) bs

/-- Every address of `m` is at least `lo` and below the address count, and addresses strictly rise. -/
def Memory.risingFrom (lo : Nat) : Memory → Bool
  | [] => true
  | (k, _) :: rest => decide (lo ≤ k) && decide (k < addressCount) && Memory.risingFrom (k + 1) rest

/-- The canonical form: addresses strictly rising, each inside the address space. No entry can equal
what an unlisted address reads as, which is no value. -/
def Memory.wf (m : Memory) : Bool := Memory.risingFrom 0 m

/-- `x[i]` (R11): the content of general-purpose register `i`, 0 to 30; no other number has one. -/
def State.readX (s : State) (i : Nat) : Option Word := s.x[i]?

/-- `x[t] <- v` (R11, R41): register 31 is the zero register, and a write to it is discarded. -/
def State.writeX (s : State) (t : Nat) (v : Word) : State :=
  if h : t < 31 then { s with x := s.x.set t v h } else s

/-- The program counter after a completed instruction: 4 bytes on (R42, R73), and a free value where
`pc + 4` does not fit in 64 bits (assumption log 3). -/
def State.advancePc (s : State) : State :=
  if s.pc.toNat + 4 < addressCount then { s with pc := s.pc + 4#64 }
  else { s with pc := Config.pcPastTop s.freeDraws, freeDraws := s.freeDraws + 1 }

/-- The context inputs as the state holds them (R9). -/
def State.context (s : State) : Context :=
  { el := s.el, el2En := s.el2En, hcrTge := s.hcrTge, hcrTid3 := s.hcrTid3 }

/-- The state with other context inputs: what the surrounding PE may do between two steps. -/
def State.withContext (s : State) (c : Context) : State :=
  { s with el := c.el, el2En := c.el2En, hcrTge := c.hcrTge, hcrTid3 := c.hcrTid3 }

/-- How high an Exception level is: EL0 is the least privileged, EL3 the most (R37). -/
def EL.level : EL → Nat
  | .el0 => 0
  | .el1 => 1
  | .el2 => 2
  | .el3 => 3

/-- `raise SystemAccessTrap(target, code)` (R11, R75): terminal, writing no register and leaving `pc`
at the instruction. -/
def raiseSystemAccessTrap (target : EL) (code : BitVec 6) (s : State) :
    Host.Outcome State Fault Refusal :=
  .fault (.systemAccessTrap target code s)

/-- `raise Undefined` (R11, R77): terminal, writing no register and leaving `pc` at the
instruction. -/
def raiseUndefined (s : State) : Host.Outcome State Fault Refusal :=
  .fault (.undefined s)

/-- The four bytes of the instruction at `pc`, if they are there (R46, R59, R93). -/
def fetchBytes (s : State) : Option (List Byte) :=
  Memory.readBytes s.mem s.pc.toNat 4

/-- The state with the bytes of word `w` standing at `pc` (R59). -/
def storeAtPc (s : State) (w : InstrWord) : State :=
  { s with mem := Memory.writeBytes s.mem s.pc.toNat (wordBytes w) }

end Sys2Proof.Machine
end

