-- ==== Sys2Proof/Machine/Accessor.lean ====
section
/-! DEFINITION. The accessor `MRS <Xt>, ID_AA64MMFR1_EL1` (R63 to R73) and its write form (R60). -/

namespace Sys2Proof.Machine

/-- How an execution of the accessor ends (R12). -/
inductive AccessOutcome where
  | read
  | trap (target : EL) (code : BitVec 6)
  | undefined
deriving DecidableEq, Repr

/-- The code all three trap calls carry (R76). -/
def trapCode : BitVec 6 := 0x18#6

/-- The access pseudocode of R63, test by test in the order of R64: `Outcome(EL, HaveIDST, EL2En, TGE,
TID3)`. -/
def accessOutcome (el : EL) (haveIDST el2En : Bool) (tge tid3 : BitVec 1) : AccessOutcome :=
  match el with
  | .el0 =>
    if haveIDST then
      if el2En && tge == 1#1 then .trap .el2 trapCode else .trap .el1 trapCode
    else .undefined
  | .el1 => if el2En && tid3 == 1#1 then .trap .el2 trapCode else .read
  | .el2 => .read
  | .el3 => .read

/-- The accessor on a PE with parameters `p` (R63). -/
def mrsOn (p : Config.Params) (t : Nat) (s : State) : Host.Outcome State Fault Refusal :=
  if t ≤ 31 then
    match accessOutcome s.el p.haveIDST s.el2En s.hcrTge s.hcrTid3 with
    | .read => .next (s.writeX t p.idval).advancePc
    | .trap target code => raiseSystemAccessTrap target code s
    | .undefined => raiseUndefined s
  else .refused .illFormed

/-- `MRS <Xt>, ID_AA64MMFR1_EL1` on this machine (R63). -/
def execMrs (t : Nat) (s : State) : Host.Outcome State Fault Refusal :=
  mrsOn Config.params t s

/-- The write form: `Undefined` at every Exception level, whatever its `Rt` (R60). -/
def execWriteForm (_t : Nat) (s : State) : Host.Outcome State Fault Refusal :=
  raiseUndefined s

end Sys2Proof.Machine
end

