-- ==== Sys2Proof/Machine/Issue.lean ====
section
/-! DEFINITION. What a decoded word does (R57, R93). -/

namespace Sys2Proof.Machine

/-- An accessor word runs its instruction; the write form raises `Undefined` (R60); any other word is
refused and named (R61, R93). -/
def issue (d : Decoded) (s : State) : Host.Outcome State Fault Refusal :=
  match d with
  | .accessor i => exec i s
  | .writeForm t => execWriteForm t s
  | .outside w => .refused (.notAccessor w)
  | .truncated => .refused (.noInstructionWord s.pc)

end Sys2Proof.Machine
end

