-- ==== Sys2Proof/Machine/Step.lean ====
section
/-! DEFINITION. One step: the word at `pc` is decoded and run (R93). -/

namespace Sys2Proof.Machine

/-- One step of the machine (R93). -/
def step (s : State) : Host.Outcome State Fault Refusal :=
  match fetchBytes s with
  | some bs => issue (decodeBytes bs) s
  | none => .refused (.noInstructionWord s.pc)

/-- `s` with the instruction whose low `nbits` bits are `w`'s, the rest 0, standing at `pc`. -/
def State.withFetchWord (s : State) (nbits w : Nat) : State :=
  storeAtPc s (BitVec.ofNat 32 (w % 2 ^ nbits))

end Sys2Proof.Machine
end

