-- ==== Sys2Proof/Machine/Assembler.lean ====
section
/-! DEFINITION. The assembler syntax of the accessor (R62). -/

namespace Sys2Proof.Machine

/-- The name of a 64-bit destination register, `X0` to `X30` or `XZR` (R62). -/
inductive XName where
  | x (n : Nat)
  | xzr
deriving DecidableEq, Repr

/-- The two spellings of the register (R62): its name, or its coordinates. -/
inductive RegSpelling where
  | named
  | generic
deriving DecidableEq, Repr

/-- A line `MRS <Xt>, <register>` (R62). -/
structure AsmLine where
  dest : XName
  reg : RegSpelling
deriving DecidableEq, Repr

/-- The register name's number, if it names one (R41, R62). -/
def xNumber : XName → Option Nat
  | .x n => if n ≤ 30 then some n else none
  | .xzr => some 31

/-- The instruction a line spells; both spellings of the register give the same (R62). -/
def asmInstr (l : AsmLine) : Option Instr := (xNumber l.dest).map .mrs

/-- The word a line assembles to (R62). -/
def assembleLine (l : AsmLine) : Option InstrWord := (asmInstr l).map encode

/-- The text of a register name. -/
def xText : XName → String
  | .x n => "X" ++ toString n
  | .xzr => "XZR"

/-- The generic name `S<op0>_<op1>_C<CRn>_C<CRm>_<op2>`, each coordinate in decimal (R62). -/
def genericName (c : SysRegCoord) : String :=
  "S" ++ toString c.op0.toNat ++ "_" ++ toString c.op1.toNat ++ "_C" ++ toString c.crn.toNat ++
    "_C" ++ toString c.crm.toNat ++ "_" ++ toString c.op2.toNat

/-- The text of a line (R62). -/
def asmText (l : AsmLine) : String :=
  "MRS " ++ xText l.dest ++ ", " ++
    match l.reg with
    | .named => "ID_AA64MMFR1_EL1"
    | .generic => genericName idMmfr1Coord

/-- The line that spells a well-formed instruction by the register's name (R62). -/
def disassemble : Instr → AsmLine
  | .mrs t => ⟨if t = 31 then .xzr else .x t, .named⟩

end Sys2Proof.Machine
end

