-- ==== Sys2Proof/Machine/Syndrome.lean ====
section
/-! DEFINITION. The syndrome of a trapped access (R78), which the spec offers from general knowledge
(G11) as a starting point for a fuller model. No step produces it (D22). -/

namespace Sys2Proof.Machine

/-- The 25-bit `ISS` of R78 for the accessor with destination `t`: zero bits, op0, op2, op1, CRn, Rt,
CRm, and the direction bit, 1 for a read. -/
def trapIss (t : Nat) : BitVec 25 :=
  0b000#3 ++ idMmfr1Coord.op0 ++ idMmfr1Coord.op2 ++ idMmfr1Coord.op1 ++ idMmfr1Coord.crn ++
    BitVec.ofNat 5 t ++ idMmfr1Coord.crm ++ 1#1

/-- The low 32 bits of `ESR_ELx` of R78: `EC` (0x18), `IL` (1) and `ISS`. -/
def trapEsr (t : Nat) : BitVec 32 := 0x18#6 ++ 1#1 ++ trapIss t

end Sys2Proof.Machine
end

