-- ==== Sys2Proof/Machine/IdFields.lean ====
section
/-! DEFINITION. `ID_AA64MMFR1_EL1` as sixteen 4-bit fields (R14 to R35, R74, R97): where each field
lies, which values are defined, what each says, and which values an architecture version permits. -/

namespace Sys2Proof.Machine

open Config (ArchVer Params)

/-- The sixteen fields, most significant first (R14). -/
inductive IdField where
  | ecbhb | cmow | tidcp1 | ntlbpa | afp | hcx | ets | twed
  | xnx | specSei | pan | lo | hpds | vh | vmidBits | hafdbs
deriving DecidableEq, Repr

/-- The fields in the order of R14. -/
def allFields : List IdField :=
  [.ecbhb, .cmow, .tidcp1, .ntlbpa, .afp, .hcx, .ets, .twed,
   .xnx, .specSei, .pan, .lo, .hpds, .vh, .vmidBits, .hafdbs]

/-- The lowest bit of a field (R14). -/
def lsb : IdField → Nat
  | .ecbhb => 60 | .cmow => 56 | .tidcp1 => 52 | .ntlbpa => 48
  | .afp => 44 | .hcx => 40 | .ets => 36 | .twed => 32
  | .xnx => 28 | .specSei => 24 | .pan => 20 | .lo => 16
  | .hpds => 12 | .vh => 8 | .vmidBits => 4 | .hafdbs => 0

/-- The highest bit of a field: every field is 4 bits wide (R4, R14). -/
def msb (f : IdField) : Nat := lsb f + 3

/-- The value of field `f` in `v`, an unsigned number 0 to 15 (R14, R74). -/
def fieldOf (f : IdField) (v : Word) : Nat := field v (msb f) (lsb f)

/-- The inverse of extraction (R74): the sum over the sixteen fields of each value shifted to its
field's place. -/
def assemble (g : IdField → Nat) : Word :=
  (allFields.map fun f => BitVec.ofNat 64 (g f) <<< lsb f).sum

/-- `Defined(field)` (R16 to R31), SpecSEI's by `HaveRAS` (R25). -/
def defined (haveRAS : Bool) : IdField → List Nat
  | .ecbhb => [0, 1]
  | .cmow => [0, 1]
  | .tidcp1 => [0, 1]
  | .ntlbpa => [0, 1]
  | .afp => [0, 1]
  | .hcx => [0, 1]
  | .ets => [0, 1]
  | .twed => [0, 1]
  | .xnx => [0, 1]
  | .specSei => if haveRAS then [0, 1] else [0]
  | .pan => [0, 1, 2, 3]
  | .lo => [0, 1]
  | .hpds => [0, 1, 2]
  | .vh => [0, 1]
  | .vmidBits => [0, 2]
  | .hafdbs => [0, 1, 2, 3]

/-- Whether the source prints "All other values are reserved." for the field (R16 to R32). -/
def reservedSentence : IdField → Bool
  | .cmow | .ntlbpa | .hcx | .ets | .twed | .xnx | .pan | .lo | .hpds | .vmidBits => true
  | .ecbhb | .tidcp1 | .afp | .specSei | .vh | .hafdbs => false

/-- Whether the value of field `f` in `v` is a defined one. -/
def fieldDefined (haveRAS : Bool) (v : Word) (f : IdField) : Bool :=
  (defined haveRAS f).contains (fieldOf f v)

/-- `WF(v, HaveRAS)` (R33): every field's value is defined. The accessor does not test it: it is a
premise on the configuration. -/
def wf (haveRAS : Bool) (v : Word) : Bool :=
  allFields.all (fieldDefined haveRAS v)

/-- The first field, most significant first, for which a configuration is refused (R32): the model
admits the configuration exactly when there is none. -/
def refusedField (p : Params) : Option IdField :=
  allFields.find? fun f => !fieldDefined p.haveRAS p.idval f

/-- `VMIDWidth` (R30), undefined for any value of VMIDBits but 0 and 2. -/
def vmidWidth (v : Word) : Option Nat :=
  match fieldOf .vmidBits v with
  | 0 => some 8
  | 2 => some 16
  | _ => none

/-- The place of a version in the order of R8. -/
def verOrd : ArchVer → Nat
  | .v8_0 => 0 | .v8_1 => 1 | .v8_2 => 2 | .v8_3 => 3 | .v8_4 => 4
  | .v8_5 => 5 | .v8_6 => 6 | .v8_7 => 7 | .v8_8 => 8 | .v8_9 => 9

/-- `From Armv8.N`: the version is `lo` or later (R35). -/
def fromVer (lo ver : ArchVer) : Bool := decide (verOrd lo ≤ verOrd ver)

/-- Whether the source names the version (R1). -/
def namedBySource : ArchVer → Bool
  | .v8_0 | .v8_1 | .v8_2 | .v8_6 | .v8_7 | .v8_8 | .v8_9 => true
  | .v8_3 | .v8_4 | .v8_5 => false

/-- The "permitted value" sentences of one field, each an implication from its version condition
(R35). -/
def permittedField (ver : ArchVer) (haveEL2 haveFP : Bool) (f : IdField) (n : Nat) : Bool :=
  match f with
  | .ecbhb => !fromVer .v8_9 ver || n != 0
  | .cmow => !fromVer .v8_8 ver || n == 1
  | .tidcp1 => !fromVer .v8_8 ver || n == 1
  | .ntlbpa => !fromVer .v8_0 ver || n == 0 || n == 1
  | .afp => !(fromVer .v8_7 ver && haveFP) || n == 1
  | .hcx => !(fromVer .v8_7 ver && haveEL2) || n == 1
  | .ets => if fromVer .v8_7 ver then n == 1 else n == 0 || n == 1
  | .twed => !fromVer .v8_6 ver || n == 0 || n == 1
  | .xnx => !fromVer .v8_2 ver || n == 1
  | .specSei => true
  | .pan =>
    if fromVer .v8_7 ver then n == 3
    else if fromVer .v8_2 ver then n == 2 || n == 3
    else if fromVer .v8_1 ver then n == 1 || n == 2 || n == 3
    else true
  | .lo => !fromVer .v8_1 ver || n == 1
  | .hpds => !fromVer .v8_1 ver || n != 0
  | .vh => !fromVer .v8_1 ver || n == 1
  | .vmidBits => !fromVer .v8_1 ver || n == 0 || n == 2
  | .hafdbs => true

/-- `Permitted(v, ArchVer, HaveEL2, HaveFP)` (R35): a premise a claim may add. -/
def permitted (v : Word) (ver : ArchVer) (haveEL2 haveFP : Bool) : Bool :=
  allFields.all fun f => permittedField ver haveEL2 haveFP f (fieldOf f v)

/-- The features tied to a value of a field (R34). -/
inductive Feature where
  | ecbhb | cmow | tidcp1 | ntlbpa | afp | hcx | ets | twed | xnx
  | pan | pan2 | pan3 | lor | hpds | hpds2 | vhe | vmid16 | hafdbs | haft
deriving DecidableEq, Repr

/-- The source's verb in "FEAT_X implements the functionality … the value V" (R34). -/
inductive FeatureVerb where
  | identifiedBy | addedBy
deriving DecidableEq, Repr

/-- One row of the table of R34. -/
structure FeatureRow where
  field : IdField
  values : List Nat
  verb : FeatureVerb
deriving DecidableEq, Repr

/-- The table of R34. The converse, from a feature to a field's value, is no rule of the spec. -/
def featureRow : Feature → FeatureRow
  | .ecbhb => ⟨.ecbhb, [1], .identifiedBy⟩
  | .cmow => ⟨.cmow, [1], .identifiedBy⟩
  | .tidcp1 => ⟨.tidcp1, [1], .identifiedBy⟩
  | .ntlbpa => ⟨.ntlbpa, [1], .identifiedBy⟩
  | .afp => ⟨.afp, [1], .identifiedBy⟩
  | .hcx => ⟨.hcx, [1], .identifiedBy⟩
  | .ets => ⟨.ets, [1], .identifiedBy⟩
  | .twed => ⟨.twed, [1], .identifiedBy⟩
  | .xnx => ⟨.xnx, [1], .identifiedBy⟩
  | .pan => ⟨.pan, [1], .identifiedBy⟩
  | .pan2 => ⟨.pan, [2], .addedBy⟩
  | .pan3 => ⟨.pan, [3], .addedBy⟩
  | .lor => ⟨.lo, [1], .identifiedBy⟩
  | .hpds => ⟨.hpds, [1], .identifiedBy⟩
  | .hpds2 => ⟨.hpds, [2], .identifiedBy⟩
  | .vhe => ⟨.vh, [1], .identifiedBy⟩
  | .vmid16 => ⟨.vmidBits, [2], .identifiedBy⟩
  | .hafdbs => ⟨.hafdbs, [1, 2], .identifiedBy⟩
  | .haft => ⟨.hafdbs, [3], .identifiedBy⟩

/-- What a field's value says about the rest of the PE: one constructor for each thing the value
tables of R16 to R31 say. These are records of sentences; no rule gives one a behaviour (R6, R15,
R53). -/
inductive Meaning where
  /-- ECBHB 0: "The implementation does not disclose whether the branch history information …" (R16). -/
  | branchHistoryNotDisclosed
  /-- ECBHB 1: "The branch history information … cannot be used by code before that exception …" (R16). -/
  | branchHistoryNotUsable
  /-- CMOW 0: "SCTLR_EL1.CMOW, SCTLR_EL2.CMOW, and HCRX_EL2.CMOW bits are not implemented." (R17). -/
  | cmowBitsNotImplemented
  /-- CMOW 1: "SCTLR_EL1.CMOW is implemented." (R17). -/
  | sctlrEl1CmowImplemented
  /-- CMOW 1: "If EL2 is implemented, SCTLR_EL2.CMOW and HCRX_EL2.CMOW bits are implemented." (R17). -/
  | el2CmowBitsImplemented
  /-- TIDCP1 0: "SCTLR_EL1.TIDCP and SCTLR_EL2.TIDCP bits are not implemented and are res0." (R18). -/
  | tidcpBitsNotImplemented
  /-- TIDCP1 1: "SCTLR_EL1.TIDCP bit is implemented." (R18). -/
  | sctlrEl1TidcpImplemented
  /-- TIDCP1 1: "If EL2 is implemented, SCTLR_EL2.TIDCP bit is implemented." (R18). -/
  | sctlrEl2TidcpImplemented
  /-- nTLBPA 0: "The intermediate caching … might include non-coherent physical translation caches." (R19). -/
  | walkCachingMightBeNonCoherent
  /-- nTLBPA 1: "The intermediate caching … does not include non-coherent physical translation caches." (R19). -/
  | walkCachingNotNonCoherent
  /-- AFP 0: the FPCR fields AH, FIZ and NEP "are not supported" (R20). -/
  | fpcrFieldsNotSupported
  /-- AFP 1: the FPCR fields AH, FIZ and NEP "are supported" (R20). -/
  | fpcrFieldsSupported
  /-- HCX 0: "HCRX_EL2 and its associated EL3 trap are not supported." (R21). -/
  | hcrxNotSupported
  /-- HCX 1: "HCRX_EL2 and its associated EL3 trap are supported." (R21). -/
  | hcrxSupported
  /-- ETS 0: "Enhanced Translation Synchronization is not supported." (R22). -/
  | etsNotSupported
  /-- ETS 1: "Enhanced Translation Synchronization is supported." (R22). -/
  | etsSupported
  /-- TWED 0: "Configurable delayed trapping of WFE is not supported." (R23). -/
  | twedNotSupported
  /-- TWED 1: "Configurable delayed trapping of WFE is supported." (R23). -/
  | twedSupported
  /-- XNX 0: "Distinction between EL0 and EL1 execute-never control at stage 2 not supported." (R24). -/
  | xnxNotSupported
  /-- XNX 1: "Distinction between EL0 and EL1 execute-never control at stage 2 supported." (R24). -/
  | xnxSupported
  /-- SpecSEI 0 with FEAT_RAS: "The PE never generates an SError interrupt due to an External abort on a
  speculative read." (R25). -/
  | specSErrorNever
  /-- SpecSEI 1 with FEAT_RAS: "The PE might generate an SError interrupt due to an External abort on a
  speculative read." (R25). -/
  | specSErrorMight
  /-- SpecSEI without FEAT_RAS: "Reserved, res0." (R25). -/
  | specSeiRes0
  /-- PAN 0: "PAN not supported." (R26). -/
  | panNotSupported
  /-- PAN 1, 2, 3: "PAN supported" (R26). -/
  | panSupported
  /-- PAN 2, 3: "AT S1E1RP and AT S1E1WP instructions supported" (R26). -/
  | atPanInstructionsSupported
  /-- PAN 3: "SCTLR_EL1.EPAN and SCTLR_EL2.EPAN bits supported" (R26). -/
  | epanBitsSupported
  /-- LO 0: "LORegions not supported." (R27). -/
  | loRegionsNotSupported
  /-- LO 1: "LORegions supported." (R27). -/
  | loRegionsSupported
  /-- HPDS 0: "Disabling of hierarchical controls not supported." (R28). -/
  | hierarchicalDisableNotSupported
  /-- HPDS 1, 2: "Disabling of hierarchical controls supported with the TCR_EL1 … bits." (R28). -/
  | hierarchicalDisableSupported
  /-- HPDS 2: "adds possible hardware allocation of bits[62:59] of the Translation table descriptors from
  the final lookup level for implementation defined use" (R28). -/
  | descriptorBitsPossiblyAllocated
  /-- VH 0: "Virtualization Host Extensions not supported." (R29). -/
  | vheNotSupported
  /-- VH 1: "Virtualization Host Extensions supported." (R29). -/
  | vheSupported
  /-- VMIDBits 0: "8 bits" (R30). -/
  | vmid8Bits
  /-- VMIDBits 2: "16 bits" (R30). -/
  | vmid16Bits
  /-- HAFDBS 0: "Hardware update of the Access flag and dirty state are not supported." (R31). -/
  | hardwareUpdateNotSupported
  /-- HAFDBS 1, 2, 3: "Support for hardware update of the Access flag for Block and Page descriptors." (R31). -/
  | accessFlagBlockPageUpdate
  /-- HAFDBS 2, 3: "Hardware update of dirty state is supported." (R31, C4). -/
  | dirtyStateUpdate
  /-- HAFDBS 3: "adds support for hardware update of the Access flag for Table descriptors" (R31). -/
  | accessFlagTableUpdate
deriving DecidableEq, Repr

/-- What value `n` of field `f` says on a PE with parameters `p` (R16 to R31); `none` for a value the
table does not define. A value whose row says "As … and adds" says all the lower value says. -/
def meanings (p : Params) (f : IdField) (n : Nat) : Option (List Meaning) :=
  match f, n with
  | .ecbhb, 0 => some [.branchHistoryNotDisclosed]
  | .ecbhb, 1 => some [.branchHistoryNotUsable]
  | .cmow, 0 => some [.cmowBitsNotImplemented]
  | .cmow, 1 => some (.sctlrEl1CmowImplemented :: if p.haveEL2 then [.el2CmowBitsImplemented] else [])
  | .tidcp1, 0 => some [.tidcpBitsNotImplemented]
  | .tidcp1, 1 => some (.sctlrEl1TidcpImplemented :: if p.haveEL2 then [.sctlrEl2TidcpImplemented] else [])
  | .ntlbpa, 0 => some [.walkCachingMightBeNonCoherent]
  | .ntlbpa, 1 => some [.walkCachingNotNonCoherent]
  | .afp, 0 => some [.fpcrFieldsNotSupported]
  | .afp, 1 => some [.fpcrFieldsSupported]
  | .hcx, 0 => some [.hcrxNotSupported]
  | .hcx, 1 => some [.hcrxSupported]
  | .ets, 0 => some [.etsNotSupported]
  | .ets, 1 => some [.etsSupported]
  | .twed, 0 => some [.twedNotSupported]
  | .twed, 1 => some [.twedSupported]
  | .xnx, 0 => some [.xnxNotSupported]
  | .xnx, 1 => some [.xnxSupported]
  | .specSei, 0 => some [if p.haveRAS then .specSErrorNever else .specSeiRes0]
  | .specSei, 1 => if p.haveRAS then some [.specSErrorMight] else none
  | .pan, 0 => some [.panNotSupported]
  | .pan, 1 => some [.panSupported]
  | .pan, 2 => some [.panSupported, .atPanInstructionsSupported]
  | .pan, 3 => some [.panSupported, .atPanInstructionsSupported, .epanBitsSupported]
  | .lo, 0 => some [.loRegionsNotSupported]
  | .lo, 1 => some [.loRegionsSupported]
  | .hpds, 0 => some [.hierarchicalDisableNotSupported]
  | .hpds, 1 => some [.hierarchicalDisableSupported]
  | .hpds, 2 => some [.hierarchicalDisableSupported, .descriptorBitsPossiblyAllocated]
  | .vh, 0 => some [.vheNotSupported]
  | .vh, 1 => some [.vheSupported]
  | .vmidBits, 0 => some [.vmid8Bits]
  | .vmidBits, 2 => some [.vmid16Bits]
  | .hafdbs, 0 => some [.hardwareUpdateNotSupported]
  | .hafdbs, 1 => some [.accessFlagBlockPageUpdate]
  | .hafdbs, 2 => some [.accessFlagBlockPageUpdate, .dirtyStateUpdate]
  | .hafdbs, 3 => some [.accessFlagBlockPageUpdate, .dirtyStateUpdate, .accessFlagTableUpdate]
  | _, _ => none

/-- Whether a sentence makes a promise a proof may use as a positive fact. ECBHB 0, nTLBPA 0 and
SpecSEI 1 make none: "does not disclose", "might include", "might generate" (R97). -/
def promises : Meaning → Bool
  | .branchHistoryNotDisclosed | .walkCachingMightBeNonCoherent | .specSErrorMight => false
  | _ => true

end Sys2Proof.Machine
end

