-- ==== Sys2Proof/Machine/Inputs.lean ====
section
/-! DEFINITION. Runs whose context inputs change between steps (R9, R38, R91, D15, D17, D18). -/

namespace Sys2Proof.Machine

/-- One step under given context inputs: the surrounding PE sets them, then the step reads them as
they are (R52). -/
def stepUnder (c : Context) (s : State) : Host.Outcome State Fault Refusal :=
  step (s.withContext c)

/-- A run with one set of context inputs for each step, stopping at the first abnormal outcome or
refusal (R93). -/
def runUnder : List Context → State → Host.Outcome State Fault Refusal
  | [], s => .next s
  | c :: cs, s =>
    match stepUnder c s with
    | .next s' => runUnder cs s'
    | .fault f => .fault f
    | .refused r => .refused r

end Sys2Proof.Machine
end

