-- ==== Sys2Proof/Safety.lean ====
section
/-! DEFINITION. The terms claims are made in: when the accessor reads, when it traps, what a good
state is, and what a refused configuration is. -/

namespace Sys2Proof.Machine

/-- The condition under which the accessor reads (R63, R85, R92): EL2 and EL3 always, EL1 unless EL2
intercepts it, EL0 never. It names no parameter of the PE. -/
def readEnabled (s : State) : Bool :=
  s.el == .el2 || s.el == .el3 || (s.el == .el1 && !(s.el2En && s.hcrTid3 == 1#1))

/-- How an execution ended (R12), when it ended as the accessor does. -/
def endKind : Host.Outcome State Fault Refusal → Option AccessOutcome
  | .next _ => some .read
  | .fault (.systemAccessTrap target code _) => some (.trap target code)
  | .fault (.undefined _) => some .undefined
  | .refused _ => none

/-- The state an abnormal ending leaves (R73, R82). -/
def Fault.left : Fault → State
  | .systemAccessTrap _ _ s => s
  | .undefined s => s

/-- The whole effect of a completed read into `x[t]` on a PE with parameters `p`: what it writes and,
the frame, what it leaves (R2, R41, R42, R43, R63). -/
structure ReadEffect (p : Config.Params) (t : Nat) (s s' : State) : Prop where
  /-- `x[t] <- IDVAL`, where `t` names a register (R41). -/
  dest : t ≤ 30 → s'.readX t = some p.idval
  /-- Every other register is as before; for `t = 31` every register is. -/
  others : ∀ i, i ≠ t → s'.readX i = s.readX i
  /-- `pc <- pc + 4` where the sum fits (R42). -/
  pcNext : s.pc.toNat + 4 < addressCount → s'.pc = s.pc + 4#64 ∧ s'.freeDraws = s.freeDraws
  /-- The free value where it does not (assumption log 3): whatever value the model's counter holds. -/
  pcFree : addressCount ≤ s.pc.toNat + 4 →
    s'.pc = Config.pcPastTop s.freeDraws ∧ s'.freeDraws = s.freeDraws + 1
  /-- No context input is written (R9, R43, R86). -/
  context : s'.context = s.context
  /-- No byte of memory is written (R46). -/
  bytes : ∀ a, Memory.readByte s'.mem a = Memory.readByte s.mem a

/-- The invariant of the machine: memory is in its canonical form. -/
def State.Inv (s : State) : Prop := Memory.wf s.mem = true

/-- A configuration the spec specifies (R32, R33). -/
def admitted (p : Config.Params) : Prop := wf p.haveRAS p.idval = true

end Sys2Proof.Machine
end

