-- ==== Sys2Proof/Certificates/Slice0/Obligations.lean ====
section
/-! DEFINITION. The statements for the provers. `addressCount` is 2^64; `ReadEffect` (Safety.lean) is
the effect of a completed read together with its frame. -/

open Sys2Proof Sys2Proof.Machine

/-! ### Decode and encode -/

/-- Words of R56, R60 and R61 written out from the spec decode as the spec says. -/
def Obligations.SpecWordsDecode : Prop :=
  decodeWord 0b11010101001110000000011100100000#32 = .accessor (.mrs 0) ∧
  decodeWord 0b11010101001110000000011100100101#32 = .accessor (.mrs 5) ∧
  decodeWord 0b11010101001110000000011100111110#32 = .accessor (.mrs 30) ∧
  decodeWord 0b11010101001110000000011100111111#32 = .accessor (.mrs 31) ∧
  decodeWord 0b11010101000110000000011100100000#32 = .writeForm 0 ∧
  decodeWord 0b11010101001110000000011000100000#32 = .outside 0xD5380620#32

/-- R56: the accessor is the set of the 32 words `0xD5380720 | t`; each is the encoding of its
instruction, and the 27 fixed bits are the match and the mask. -/
def Obligations.AccessorWordsAreMatchOrT : Prop :=
  (∀ t, t ≤ 31 → encode (.mrs t) = 0xD5380720#32 ||| BitVec.ofNat 32 t ∧
    (encode (.mrs t)).toNat = 0xD5380720 + t) ∧
  ∀ w : InstrWord, (∃ i, decodeWord w = .accessor i) ↔
    ∃ t, t ≤ 31 ∧ w = 0xD5380720#32 ||| BitVec.ofNat 32 t

/-- R54, R55: a word is the accessor exactly when every field of the system-register move format has
the value the format and the coordinates give it; `Rt` is then bits [4:0]. -/
def Obligations.AccessorIffFormatFields : Prop :=
  ∀ (w : InstrWord) (t : Nat), decodeWord w = .accessor (.mrs t) ↔
    (slice w 31 22 = 0b1101010100#10 ∧ slice w 21 21 = 1#1 ∧ slice w 20 19 = 0b11#2 ∧
      slice w 18 16 = 0b000#3 ∧ slice w 15 12 = 0b0000#4 ∧ slice w 11 8 = 0b0111#4 ∧
      slice w 7 5 = 0b001#3 ∧ (slice w 4 0).toNat = t)

/-- Decode and encode agree on every word: a word decodes to an instruction exactly when the
instruction is well formed and the word is its encoding, and to the write form with `Rt = t` exactly
when `t` is a register number and the word is that write form's; so does an instruction's encoding
read back from memory bytes and from the opcode table's numbering. -/
def Obligations.DecodeAndEncodeAgree : Prop :=
  (∀ (w : InstrWord) (i : Instr),
    decodeWord w = .accessor i ↔ i.wellFormed = true ∧ w = encode i) ∧
  (∀ (w : InstrWord) (t : Nat), decodeWord w = .writeForm t ↔ t ≤ 31 ∧ w = writeFormWord t) ∧
  ∀ i : Instr, i.wellFormed = true →
    decodeBytes (encodeBytes i) = .accessor i ∧ decodeTableWord 32 (encode i).toNat = some i

/-- R59: an instruction is four bytes, least significant first, and the decoder reads from the bytes
the word they hold, whatever follows; a shorter list is no instruction. -/
def Obligations.BytesAreLittleEndian : Prop :=
  (∀ (w : InstrWord) (rest : List Byte),
    (wordBytes w).map BitVec.toNat =
      [w.toNat % 256, w.toNat / 256 % 256, w.toNat / 65536 % 256, w.toNat / 16777216] ∧
    decodeBytes (wordBytes w ++ rest) = decodeWord w) ∧
  ∀ bs : List Byte, bs.length < 4 → decodeBytes bs = .truncated

/-! ### Steps -/

/-- When the bytes at `pc` decode to a well-formed instruction, the step is `exec` of it. The accessor
moves `pc` itself, so the step adds nothing around it. -/
def Obligations.StepRunsDecodedInstruction : Prop :=
  ∀ (s : State) (bs : List Byte) (i : Instr),
    fetchBytes s = some bs → decodeBytes bs = .accessor i → i.wellFormed = true →
    step s = exec i s

/-- R57, R60, R61: what a step does on every word that can stand at `pc`. The accessor runs with
`t = w[4:0]`, the write form is `Undefined` at every Exception level and leaves the state as it was,
and any other word is refused and named. -/
def Obligations.StepOnEveryWord : Prop :=
  ∀ (s : State) (w : InstrWord), fetchBytes s = some (wordBytes w) →
    step s =
      if w &&& 0xFFFFFFE0#32 = 0xD5380720#32 then exec (.mrs (w.toNat % 32)) s
      else if w &&& 0xFFFFFFE0#32 = 0xD5180720#32 then .fault (.undefined s)
      else .refused (.notAccessor w)

/-- Where no instruction word stands at `pc`, the step is refused and names the address (model's
choice, assumption log 6). -/
def Obligations.NoWordAtPcIsRefused : Prop :=
  ∀ s : State,
    (∃ k, k < 4 ∧ Memory.readByte s.mem (s.pc.toNat + k) = none) →
    step s = .refused (.noInstructionWord s.pc)

/-- A word placed where the step fetches is what it fetches, and placing it changes the four bytes at
`pc` and nothing else. -/
def Obligations.PlacedWordIsFetched : Prop :=
  ∀ (s : State) (w : InstrWord), s.pc.toNat + 4 ≤ addressCount →
    fetchBytes (s.withFetchWord 32 w.toNat) = some (wordBytes w) ∧
    (s.withFetchWord 32 w.toNat).pc = s.pc ∧
    (s.withFetchWord 32 w.toNat).context = s.context ∧
    (∀ i, (s.withFetchWord 32 w.toNat).readX i = s.readX i) ∧
    (s.withFetchWord 32 w.toNat).freeDraws = s.freeDraws ∧
    (∀ a, (a < s.pc.toNat ∨ s.pc.toNat + 4 ≤ a) →
      Memory.readByte (s.withFetchWord 32 w.toNat).mem a = Memory.readByte s.mem a) ∧
    (s.Inv → (s.withFetchWord 32 w.toNat).Inv)

/-- A term whose operand no encoding holds is refused by name in every state (R58; assumption log 8). -/
def Obligations.IllFormedTermIsRefused : Prop :=
  ∀ (t : Nat) (s : State), 31 < t → exec (.mrs t) s = .refused .illFormed

/-! ### The accessor, arm by arm -/

/-- R69: at EL1, with `EL2Enabled()` FALSE or `HCR_EL2.TID3 == '0'`, the accessor completes and reads
`IDVAL`, for every destination, 31 included. Where `pc + 4` does not fit in 64 bits, that `pc` becomes
a free value and the draw counter moves on (`ReadEffect.pcFree`) is the model's choice, assumption
log 3; that all else is unchanged is read from the pseudocode's one assignment. -/
def Obligations.ReadCompletesAtEl1 : Prop :=
  ∀ (t : Nat) (s : State), t ≤ 31 → s.el = .el1 → (s.el2En = false ∨ s.hcrTid3 = 0#1) →
    ∃ s', exec (.mrs t) s = .next s' ∧ ReadEffect Config.params t s s'

/-- R70, R71: at EL2 and at EL3 the accessor completes and reads `IDVAL`, unconditionally. Where
`pc + 4` does not fit in 64 bits, that `pc` becomes a free value and the draw counter moves on
(`ReadEffect.pcFree`) is the model's choice, assumption log 3. -/
def Obligations.ReadCompletesAtEl2AndEl3 : Prop :=
  ∀ (t : Nat) (s : State), t ≤ 31 → (s.el = .el2 ∨ s.el = .el3) →
    ∃ s', exec (.mrs t) s = .next s' ∧ ReadEffect Config.params t s s'

/-- R72: with `t = 31` a read writes no register and only `pc` advances; the outcome of the access
checks does not depend on `t`; and the previous content of the destination has no effect. -/
def Obligations.DestinationNumberCornerCases : Prop :=
  (∀ s : State, readEnabled s = true →
    ∃ s', exec (.mrs 31) s = .next s' ∧ (∀ i, s'.readX i = s.readX i) ∧
      (s.pc.toNat + 4 < addressCount → s' = { s with pc := s.pc + 4#64 })) ∧
  (∀ (t u : Nat) (s : State) (f : Fault), t ≤ 31 → u ≤ 31 →
    exec (.mrs t) s = .fault f → exec (.mrs u) s = .fault f) ∧
  (∀ (t : Nat) (s : State) (old : Word), t ≤ 30 → readEnabled s = true →
    exec (.mrs t) (s.writeX t old) = exec (.mrs t) s)

/-- R65: at EL0 without FEAT_IDST the accessor is `Undefined`, whatever `EL2Enabled()` and `HCR_EL2`
hold, and leaves the state as it was. -/
def Obligations.UndefinedAtEl0WithoutIdst : Prop :=
  ∀ (p : Config.Params) (t : Nat) (s : State),
    t ≤ 31 → s.el = .el0 → p.haveIDST = false → mrsOn p t s = .fault (.undefined s)

/-- R66, R67: at EL0 with FEAT_IDST the accessor traps, to EL2 where `EL2Enabled()` and
`HCR_EL2.TGE == '1'`, to EL1 otherwise, leaving the state as it was; and an execution at EL0 never
reads, with FEAT_IDST or without. -/
def Obligations.TrapsAtEl0WithIdst : Prop :=
  (∀ (p : Config.Params) (t : Nat) (s : State), t ≤ 31 → s.el = .el0 → p.haveIDST = true →
    mrsOn p t s =
      if s.el2En = true ∧ s.hcrTge = 1#1 then .fault (.systemAccessTrap .el2 0x18#6 s)
      else .fault (.systemAccessTrap .el1 0x18#6 s)) ∧
  ∀ (p : Config.Params) (t : Nat) (s s' : State), s.el = .el0 → mrsOn p t s ≠ .next s'

/-- R68: at EL1, with `EL2Enabled()` and `HCR_EL2.TID3 == '1'`, the accessor traps to EL2 and leaves
the state as it was. -/
def Obligations.TrapAtEl1ToEl2 : Prop :=
  ∀ (t : Nat) (s : State), t ≤ 31 → s.el = .el1 → s.el2En = true → s.hcrTid3 = 1#1 →
    exec (.mrs t) s = .fault (.systemAccessTrap .el2 0x18#6 s)

/-- R65 to R67 on this machine, whose `HaveIDST` is open: `exec` at EL0. -/
def Obligations.ExecAtEl0 : Prop :=
  ∀ (t : Nat) (s : State), t ≤ 31 → s.el = .el0 →
    exec (.mrs t) s =
      if Config.haveIDST then
        if s.el2En = true ∧ s.hcrTge = 1#1 then .fault (.systemAccessTrap .el2 0x18#6 s)
        else .fault (.systemAccessTrap .el1 0x18#6 s)
      else .fault (.undefined s)

/-- R79: the complete list of causes. Each abnormal outcome of the accessor results exactly under the
condition of its row, the write form is `Undefined` at every level, a read results exactly where no
row applies, and there is no other outcome. -/
def Obligations.CompleteListOfCauses : Prop :=
  (∀ (p : Config.Params) (t : Nat) (s : State), t ≤ 31 →
    (mrsOn p t s = .fault (.systemAccessTrap .el1 0x18#6 s) ↔
      s.el = .el0 ∧ p.haveIDST = true ∧ ¬(s.el2En = true ∧ s.hcrTge = 1#1)) ∧
    (mrsOn p t s = .fault (.systemAccessTrap .el2 0x18#6 s) ↔
      (s.el = .el0 ∧ p.haveIDST = true ∧ s.el2En = true ∧ s.hcrTge = 1#1) ∨
      (s.el = .el1 ∧ s.el2En = true ∧ s.hcrTid3 = 1#1)) ∧
    (mrsOn p t s = .fault (.undefined s) ↔ s.el = .el0 ∧ p.haveIDST = false) ∧
    ((∃ s', mrsOn p t s = .next s') ↔ readEnabled s = true) ∧
    (∀ f, mrsOn p t s = .fault f →
      f = .systemAccessTrap .el1 0x18#6 s ∨ f = .systemAccessTrap .el2 0x18#6 s ∨
      f = .undefined s) ∧
    (∀ r, mrsOn p t s ≠ .refused r)) ∧
  ∀ (t : Nat) (s : State), issue (.writeForm t) s = .fault (.undefined s)

/-- R64: the outcome depends on nothing but what the pseudocode consults, and on each input only where
it is consulted. Two executions, on two PEs that may differ in `IDVAL` and every other parameter, with
any destinations, registers, memory and `pc`, end in the same way if they agree on `PSTATE.EL`; at EL0
on `HaveIDST`; at EL0 with FEAT_IDST on `EL2En`; there with `EL2En` on TGE; at EL1 on `EL2En`; there
with `EL2En` on TID3. -/
def Obligations.OnlyConsultedInputsMatter : Prop :=
  ∀ (p q : Config.Params) (t u : Nat) (s s' : State), t ≤ 31 → u ≤ 31 → s.el = s'.el →
    (s.el = .el0 → p.haveIDST = q.haveIDST) →
    (s.el = .el0 → p.haveIDST = true → s.el2En = s'.el2En) →
    (s.el = .el0 → p.haveIDST = true → s.el2En = true → s.hcrTge = s'.hcrTge) →
    (s.el = .el1 → s.el2En = s'.el2En) →
    (s.el = .el1 → s.el2En = true → s.hcrTid3 = s'.hcrTid3) →
    endKind (mrsOn p t s) = endKind (mrsOn q u s')

/-- R84: `HCR_EL2.TGE` moves the EL0 trap, which exists only with FEAT_IDST, from EL1 to EL2, and
`HCR_EL2.TID3` turns the EL1 read into a trap to EL2, both only while `EL2Enabled()`; with
`EL2Enabled()` FALSE both bits are ignored, and at EL2 and EL3 neither has an effect; nothing traps to
EL3 and nothing lets EL0 read. -/
def Obligations.RoutingByHcrEl2 : Prop :=
  ∀ (p : Config.Params) (t : Nat) (s : State), t ≤ 31 →
    (s.el = .el0 → p.haveIDST = true →
      endKind (mrsOn p t { s with el2En := true, hcrTge := 0#1 }) = some (.trap .el1 0x18#6) ∧
      endKind (mrsOn p t { s with el2En := true, hcrTge := 1#1 }) = some (.trap .el2 0x18#6)) ∧
    (s.el = .el1 →
      endKind (mrsOn p t { s with el2En := true, hcrTid3 := 0#1 }) = some .read ∧
      endKind (mrsOn p t { s with el2En := true, hcrTid3 := 1#1 }) = some (.trap .el2 0x18#6)) ∧
    (s.el2En = false → ∀ tge tid3,
      endKind (mrsOn p t { s with hcrTge := tge, hcrTid3 := tid3 }) = endKind (mrsOn p t s) ∧
      (s.el = .el0 → p.haveIDST = true →
        endKind (mrsOn p t s) = some (.trap .el1 0x18#6)) ∧
      (s.el = .el1 → endKind (mrsOn p t s) = some .read)) ∧
    (s.el = .el2 ∨ s.el = .el3 → ∀ tge tid3,
      endKind (mrsOn p t { s with hcrTge := tge, hcrTid3 := tid3 }) = some .read) ∧
    (s.el = .el0 → p.haveIDST = false → endKind (mrsOn p t s) = some .undefined) ∧
    (∀ code, endKind (mrsOn p t s) ≠ some (.trap .el3 code)) ∧
    (s.el = .el0 → endKind (mrsOn p t s) ≠ some .read)

/-- At EL0 the accessor answers the same on two PEs that differ in `IDVAL` only: EL0 learns nothing of
the register. -/
def Obligations.El0LearnsNothingOfIdval : Prop :=
  ∀ (p : Config.Params) (v : Word) (t : Nat) (s : State), s.el = .el0 →
    mrsOn { p with idval := v } t s = mrsOn p t s

/-- The value read depends on no Exception level, destination, context or earlier content: any two
completed reads, from any two states, into any two registers, leave the same 64 bits. -/
def Obligations.AnyTwoReadsAgree : Prop :=
  ∀ (t u : Nat) (s₁ s₂ s₁' s₂' : State), t ≤ 30 → u ≤ 30 →
    exec (.mrs t) s₁ = .next s₁' → exec (.mrs u) s₂ = .next s₂' →
    s₁'.readX t = s₂'.readX u ∧ s₁'.readX t = some Config.idval

/-- Reads commute: two completed reads in either order lead to the same state. -/
def Obligations.ReadsCommute : Prop :=
  ∀ (t u : Nat) (s s₁ s₂ : State),
    exec (.mrs t) s = .next s₁ → exec (.mrs u) s₁ = .next s₂ →
    ∃ s₁', exec (.mrs u) s = .next s₁' ∧ exec (.mrs t) s₁' = .next s₂

/-- A trapped or undefined access, executed again from the state it leaves, ends in the same way. -/
def Obligations.AbnormalEndingRepeats : Prop :=
  ∀ (i : Instr) (s : State) (f : Fault), exec i s = .fault f → exec i f.left = .fault f

/-! ### Whole-machine rules -/

/-- R75: every system access trap of a step carries the code 0x18, leaves the state as it was (no
register written, `pc` at the instruction), and is to a strictly higher Exception level: EL0 to EL1 or
EL2, EL1 to EL2. -/
def Obligations.TrapsGoStrictlyHigher : Prop :=
  ∀ (s left : State) (target : EL) (code : BitVec 6),
    step s = .fault (.systemAccessTrap target code left) →
    code = 0x18#6 ∧ left = s ∧ s.el.level < target.level ∧
    ((s.el = .el0 ∧ (target = .el1 ∨ target = .el2)) ∨ (s.el = .el1 ∧ target = .el2))

/-- Every abnormal ending of a step leaves the whole state as it was: no partial write. -/
def Obligations.AbnormalEndingsArePrecise : Prop :=
  ∀ (s : State) (f : Fault), step s = .fault f → f.left = s

/-- No step at EL0 answers a next state: unprivileged software never obtains the value. -/
def Obligations.El0NeverCompletes : Prop :=
  ∀ s s' : State, s.el = .el0 → step s ≠ .next s'

/-- At EL3 no step traps, and no step at any level traps to EL3. -/
def Obligations.El3NeitherTrapsNorIsTarget : Prop :=
  (∀ (s left : State) (target : EL) (code : BitVec 6), s.el = .el3 →
    step s ≠ .fault (.systemAccessTrap target code left)) ∧
  ∀ (s left : State) (code : BitVec 6), step s ≠ .fault (.systemAccessTrap .el3 code left)

/-- A step that answers a next state was a read, into one destination, with the read's effect and
frame and nothing more; it ran where a read is enabled. The effect's `pc` past the top of the address
space is the model's choice, assumption log 3. -/
def Obligations.EveryStepIsARead : Prop :=
  ∀ s s' : State, step s = .next s' →
    readEnabled s = true ∧ ∃ t, t ≤ 31 ∧ ReadEffect Config.params t s s' ∧ s'.mem = s.mem

/-- Every step keeps memory in its canonical form, from every state that has it. The form is the
model's choice, assumption log 6. -/
def Obligations.StepKeepsCanonicalMemory : Prop :=
  ∀ s s' : State, s.Inv → step s = .next s' → s'.Inv

/-- The state after reset has memory in its canonical form. The spec gives memory no value at reset:
that it lists nothing is the model's choice, assumption log 7, and so is the form, log 6. -/
def Obligations.ResetMemoryIsCanonical : Prop := State.reset.Inv

/-- Only `IDVAL` enters a register: whatever holds of every general-purpose register and of `IDVAL`
holds of every register after any run, the surrounding PE setting the context inputs before each step
as it likes. Memory stays as it was throughout. -/
def Obligations.OnlyIdvalEntersRegisters : Prop :=
  ∀ (Good : Word → Prop), Good Config.idval →
    ∀ (cs : List Context) (s s' : State), (∀ i v, s.readX i = some v → Good v) →
      runUnder cs s = .next s' →
      (∀ i v, s'.readX i = some v → Good v) ∧ s'.mem = s.mem ∧ (s.Inv → s'.Inv)

/-- A straight run of accessor words, in a state where a read is enabled and with room below the top
of the address space, completes: `pc` has moved past the words, every destination named holds `IDVAL`,
and everything else is as before. This is a run of `Sys2Proof.core`, which holds the context inputs
still between steps: assumption log 5 (DEDUCED, unsafe for a claim about several steps). The bytes at
`pc` are those of log 6. -/
def Obligations.RunOfAccessorWordsCompletes : Prop :=
  ∀ (ts : List Nat) (s : State), (∀ t ∈ ts, t ≤ 31) → readEnabled s = true →
    s.pc.toNat + 4 * ts.length < addressCount →
    Memory.readBytes s.mem s.pc.toNat (4 * ts.length) =
      some (ts.flatMap fun t => encodeBytes (.mrs t)) →
    ∃ s', Sys2Proof.core.run ts.length s = .next s' ∧
      s'.pc = s.pc + BitVec.ofNat 64 (4 * ts.length) ∧
      (∀ i, i ≤ 30 → s'.readX i = if i ∈ ts then some Config.idval else s.readX i) ∧
      s'.context = s.context ∧ s'.mem = s.mem ∧ s'.freeDraws = s.freeDraws

/-- Where a run ends in an abnormal outcome, the outcome is the machine's last step's and final: some
number of completed reads reached the state it leaves, which has the context inputs and the memory the
run began with and in each register what was there or `IDVAL`; a step from that state ends in the same
outcome again, and so does every longer run. The first step may trap; once a read has completed only
the write form ends the run. A run of `Sys2Proof.core` holds the context inputs still between steps:
assumption log 5 (DEDUCED, unsafe for a claim about several steps). -/
def Obligations.AbnormalOutcomeIsFinal : Prop :=
  ∀ (k : Nat) (s : State) (f : Fault), Sys2Proof.core.run k s = .fault f →
    step f.left = .fault f ∧
    (∀ m, Sys2Proof.core.run (k + m) s = .fault f) ∧
    f.left.context = s.context ∧ f.left.mem = s.mem ∧
    (∀ i, f.left.readX i = s.readX i ∨ f.left.readX i = some Config.idval) ∧
    ∃ j, j < k ∧ Sys2Proof.core.run j s = .next f.left ∧ (0 < j → f = .undefined f.left)

/-- After reset the register holds `IDVAL`: under any context inputs that enable a read, the first
accessor reads it into every register, whatever else the state after reset holds. -/
def Obligations.ResetLeavesIdval : Prop :=
  ∀ (c : Context) (t : Nat), t ≤ 30 → readEnabled (State.reset.withContext c) = true →
    ∃ s', exec (.mrs t) (State.reset.withContext c) = .next s' ∧
      s'.readX t = some Config.idval

/-! ### The register's fields -/

/-- R4, R14: the sixteen fields are 4 bits wide and tile the 64 bits, each bit belonging to exactly one
field, and each field's value is the slice the layout names. -/
def Obligations.FieldsTileTheRegister : Prop :=
  (∀ b, b < 64 → ∃ f, (lsb f ≤ b ∧ b ≤ msb f) ∧ ∀ g, lsb g ≤ b ∧ b ≤ msb g → g = f) ∧
  (∀ f, msb f = lsb f + 3 ∧ msb f < 64) ∧
  ∀ v : Word,
    fieldOf .ecbhb v = (slice v 63 60).toNat ∧ fieldOf .cmow v = (slice v 59 56).toNat ∧
    fieldOf .tidcp1 v = (slice v 55 52).toNat ∧ fieldOf .ntlbpa v = (slice v 51 48).toNat ∧
    fieldOf .afp v = (slice v 47 44).toNat ∧ fieldOf .hcx v = (slice v 43 40).toNat ∧
    fieldOf .ets v = (slice v 39 36).toNat ∧ fieldOf .twed v = (slice v 35 32).toNat ∧
    fieldOf .xnx v = (slice v 31 28).toNat ∧ fieldOf .specSei v = (slice v 27 24).toNat ∧
    fieldOf .pan v = (slice v 23 20).toNat ∧ fieldOf .lo v = (slice v 19 16).toNat ∧
    fieldOf .hpds v = (slice v 15 12).toNat ∧ fieldOf .vh v = (slice v 11 8).toNat ∧
    fieldOf .vmidBits v = (slice v 7 4).toNat ∧ fieldOf .hafdbs v = (slice v 3 0).toNat

/-- R74: extraction is the floor of `v / 2^lo` modulo `2^(hi-lo+1)`, and building a value from field
values is its inverse, both ways. -/
def Obligations.ExtractionAndItsInverse : Prop :=
  (∀ (v : Word) (hi lo : Nat), lo ≤ hi → hi ≤ 63 →
    field v hi lo = v.toNat / 2 ^ lo % 2 ^ (hi - lo + 1)) ∧
  (∀ v : Word, assemble (fun f => fieldOf f v) = v) ∧
  ∀ g : IdField → Nat, (∀ f, g f ≤ 15) → ∀ f, fieldOf f (assemble g) = g f

/-- The predicate `WF` holds exactly when each slice of the value is among the values R33 lists. -/
def Obligations.WfIsEverySliceDefined : Prop :=
  ∀ (haveRAS : Bool) (v : Word), wf haveRAS v = true ↔
    (slice v 63 60).toNat ∈ [0, 1] ∧ (slice v 59 56).toNat ∈ [0, 1] ∧
    (slice v 55 52).toNat ∈ [0, 1] ∧ (slice v 51 48).toNat ∈ [0, 1] ∧
    (slice v 47 44).toNat ∈ [0, 1] ∧ (slice v 43 40).toNat ∈ [0, 1] ∧
    (slice v 39 36).toNat ∈ [0, 1] ∧ (slice v 35 32).toNat ∈ [0, 1] ∧
    (slice v 31 28).toNat ∈ [0, 1] ∧
    (if haveRAS then (slice v 27 24).toNat ∈ [0, 1] else (slice v 27 24).toNat = 0) ∧
    (slice v 23 20).toNat ∈ [0, 1, 2, 3] ∧ (slice v 19 16).toNat ∈ [0, 1] ∧
    (slice v 15 12).toNat ∈ [0, 1, 2] ∧ (slice v 11 8).toNat ∈ [0, 1] ∧
    (slice v 7 4).toNat ∈ [0, 2] ∧ (slice v 3 0).toNat ∈ [0, 1, 2, 3]

/-- There are 393216 well-formed values with FEAT_RAS and 196608 without. -/
def Obligations.WfValueCount : Prop :=
  {v : Word | wf true v = true}.ncard = 393216 ∧ {v : Word | wf false v = true}.ncard = 196608

/-- The model admits a configuration exactly when it names no field as refused; a field it names holds
a value that is not defined, and every field before it a defined one. -/
def Obligations.RefusedFieldIsTheFirstUndefined : Prop :=
  ∀ p : Config.Params,
    (refusedField p = none ↔ admitted p) ∧
    ∀ f, refusedField p = some f →
      fieldOf f p.idval ∉ defined p.haveRAS f ∧
      ∀ g, lsb f < lsb g → fieldOf g p.idval ∈ defined p.haveRAS g

/-- R35: `Permitted` is the conjunction of the source's sentences, each under its version condition;
and the rows of nTLBPA, of ETS below Armv8.7 and of TWED constrain nothing beyond `WF`. -/
def Obligations.PermittedIsTheTableOfSentences : Prop :=
  (∀ (v : Word) (ver : Config.ArchVer) (haveEL2 haveFP : Bool),
    permitted v ver haveEL2 haveFP = true ↔
      (9 ≤ verOrd ver → (slice v 63 60).toNat ≠ 0) ∧
      (8 ≤ verOrd ver → (slice v 59 56).toNat = 1) ∧
      (8 ≤ verOrd ver → (slice v 55 52).toNat = 1) ∧
      (slice v 51 48).toNat ∈ [0, 1] ∧
      (7 ≤ verOrd ver → haveFP = true → (slice v 47 44).toNat = 1) ∧
      (7 ≤ verOrd ver → haveEL2 = true → (slice v 43 40).toNat = 1) ∧
      (verOrd ver < 7 → (slice v 39 36).toNat ∈ [0, 1]) ∧
      (7 ≤ verOrd ver → (slice v 39 36).toNat = 1) ∧
      (6 ≤ verOrd ver → (slice v 35 32).toNat ∈ [0, 1]) ∧
      (2 ≤ verOrd ver → (slice v 31 28).toNat = 1) ∧
      (verOrd ver = 1 → (slice v 23 20).toNat ∈ [1, 2, 3]) ∧
      (2 ≤ verOrd ver → verOrd ver < 7 → (slice v 23 20).toNat ∈ [2, 3]) ∧
      (7 ≤ verOrd ver → (slice v 23 20).toNat = 3) ∧
      (1 ≤ verOrd ver → (slice v 19 16).toNat = 1) ∧
      (1 ≤ verOrd ver → (slice v 15 12).toNat ≠ 0) ∧
      (1 ≤ verOrd ver → (slice v 11 8).toNat = 1) ∧
      (1 ≤ verOrd ver → (slice v 7 4).toNat ∈ [0, 2])) ∧
  ∀ (haveRAS : Bool) (v : Word) (ver : Config.ArchVer) (haveEL2 haveFP : Bool),
    wf haveRAS v = true →
      permittedField ver haveEL2 haveFP .ntlbpa (fieldOf .ntlbpa v) = true ∧
      (verOrd ver < 7 → permittedField ver haveEL2 haveFP .ets (fieldOf .ets v) = true) ∧
      permittedField ver haveEL2 haveFP .twed (fieldOf .twed v) = true

/-- A value permitted in a version is permitted in every earlier one: the sentences only tighten. -/
def Obligations.PermittedOnlyTightens : Prop :=
  ∀ (v : Word) (old new : Config.ArchVer) (haveEL2 haveFP : Bool),
    verOrd old ≤ verOrd new → permitted v new haveEL2 haveFP = true →
    permitted v old haveEL2 haveFP = true

/-- `VMIDWidth` is 8 for VMIDBits 0, 16 for VMIDBits 2, and undefined for every other value; it is
defined for every well-formed value. -/
def Obligations.VmidWidthByVmidBits : Prop :=
  (∀ v : Word,
    vmidWidth v =
      if (slice v 7 4).toNat = 0 then some 8
      else if (slice v 7 4).toNat = 2 then some 16 else none) ∧
  ∀ (haveRAS : Bool) (v : Word), wf haveRAS v = true → (vmidWidth v).isSome = true

/-- After R97: a value outside its defined set says nothing, and a defined one says something; the
sentences that promise nothing are exactly those of ECBHB 0, nTLBPA 0 and, with FEAT_RAS, SpecSEI 1;
and the defined values of VMIDBits are 0 (8 bits) and 2 (16 bits). R97 names the three that promise
nothing; that every other sentence counts as a promise, and so "exactly", is the model's choice,
assumption log 16 (DEDUCED). -/
def Obligations.WhatAReaderMayConclude : Prop :=
  (∀ (p : Config.Params) (f : IdField) (n : Nat),
    (meanings p f n).isSome = true ↔ n ∈ defined p.haveRAS f) ∧
  (∀ (p : Config.Params) (f : IdField) (n : Nat) (ms : List Meaning) (m : Meaning),
    meanings p f n = some ms → m ∈ ms →
    (promises m = false ↔
      (f = .ecbhb ∧ n = 0) ∨ (f = .ntlbpa ∧ n = 0) ∨ (f = .specSei ∧ n = 1))) ∧
  ∀ (p : Config.Params) (n : Nat),
    (meanings p .vmidBits n = some [.vmid8Bits] ↔ n = 0) ∧
    (meanings p .vmidBits n = some [.vmid16Bits] ↔ n = 2) ∧
    (n ≠ 0 → n ≠ 2 → meanings p .vmidBits n = none)

/-- Where a row says "As … and adds", and in the PAN table, a value says all that the positive values
below it say. -/
def Obligations.HigherValuesAddMeanings : Prop :=
  ∀ (p : Config.Params) (f : IdField), f = .pan ∨ f = .hpds ∨ f = .hafdbs →
    ∀ (m n : Nat) (low high : List Meaning), 1 ≤ m → m ≤ n →
      meanings p f m = some low → meanings p f n = some high → low <+: high

/-- Every value the table of features ties to a feature is a defined, non-zero value of its field. -/
def Obligations.FeatureValuesAreDefined : Prop :=
  ∀ (haveRAS : Bool) (x : Feature) (n : Nat), n ∈ (featureRow x).values →
    n ≠ 0 ∧ n ∈ defined haveRAS (featureRow x).field

/-! ### Assembler and syndrome -/

/-- The line that spells a well-formed instruction assembles to its word, by the register's name and by
its generic name alike; and every line that assembles gives a well-formed instruction. -/
def Obligations.AssemblerLinesRoundTrip : Prop :=
  (∀ i : Instr, i.wellFormed = true →
    assembleLine (disassemble i) = some (encode i) ∧
    assembleLine { disassemble i with reg := .generic } = some (encode i)) ∧
  ∀ (l : AsmLine) (i : Instr), asmInstr l = some i →
    i.wellFormed = true ∧ (disassemble i).dest = l.dest

/-- The general-knowledge syndrome of R78, field by field, has the values R78 computes. -/
def Obligations.SyndromeValues : Prop :=
  ∀ t, t ≤ 31 →
    trapIss t = 0x032000F#25 ||| (BitVec.ofNat 25 t <<< 5) ∧
    trapEsr t = 0x6232000F#32 ||| (BitVec.ofNat 32 t <<< 5)
end

