-- ==== Sys2Proof/Laws/State.lean ====
section
/-! SUPPORT. What each update of the state leaves and what it changes, one lemma a field. -/

namespace Sys2Proof.Machine

section WithContext

variable (s : State) (c : Context)

@[simp] theorem withContext_x : (s.withContext c).x = s.x := rfl
@[simp] theorem withContext_pc : (s.withContext c).pc = s.pc := rfl
@[simp] theorem withContext_el : (s.withContext c).el = c.el := rfl
@[simp] theorem withContext_el2En : (s.withContext c).el2En = c.el2En := rfl
@[simp] theorem withContext_hcrTge : (s.withContext c).hcrTge = c.hcrTge := rfl
@[simp] theorem withContext_hcrTid3 : (s.withContext c).hcrTid3 = c.hcrTid3 := rfl
@[simp] theorem withContext_mem : (s.withContext c).mem = s.mem := rfl
@[simp] theorem withContext_freeDraws : (s.withContext c).freeDraws = s.freeDraws := rfl
@[simp] theorem withContext_context : (s.withContext c).context = c := rfl
@[simp] theorem withContext_readX (i : Nat) : (s.withContext c).readX i = s.readX i := rfl

end WithContext

section StoreAtPc

variable (s : State) (w : InstrWord)

@[simp] theorem storeAtPc_x : (storeAtPc s w).x = s.x := rfl
@[simp] theorem storeAtPc_pc : (storeAtPc s w).pc = s.pc := rfl
@[simp] theorem storeAtPc_context : (storeAtPc s w).context = s.context := rfl
@[simp] theorem storeAtPc_freeDraws : (storeAtPc s w).freeDraws = s.freeDraws := rfl
@[simp] theorem storeAtPc_mem :
    (storeAtPc s w).mem = Memory.writeBytes s.mem s.pc.toNat (wordBytes w) := rfl

end StoreAtPc

section WriteX

variable (s : State) (t : Nat) (v : Word)

@[simp] theorem writeX_pc : (s.writeX t v).pc = s.pc := by unfold State.writeX; split <;> rfl
@[simp] theorem writeX_el : (s.writeX t v).el = s.el := by unfold State.writeX; split <;> rfl
@[simp] theorem writeX_el2En : (s.writeX t v).el2En = s.el2En := by
  unfold State.writeX; split <;> rfl
@[simp] theorem writeX_hcrTge : (s.writeX t v).hcrTge = s.hcrTge := by
  unfold State.writeX; split <;> rfl
@[simp] theorem writeX_hcrTid3 : (s.writeX t v).hcrTid3 = s.hcrTid3 := by
  unfold State.writeX; split <;> rfl
@[simp] theorem writeX_mem : (s.writeX t v).mem = s.mem := by unfold State.writeX; split <;> rfl
@[simp] theorem writeX_freeDraws : (s.writeX t v).freeDraws = s.freeDraws := by
  unfold State.writeX; split <;> rfl
@[simp] theorem writeX_context : (s.writeX t v).context = s.context := by
  unfold State.writeX; split <;> rfl

/-- What register `i` holds after a write of register `t`: 31 and above name no register. -/
theorem readX_writeX (i : Nat) :
    (s.writeX t v).readX i = if i = t ∧ t < 31 then some v else s.readX i := by
  unfold State.writeX State.readX
  split
  · rename_i h
    by_cases hit : i = t
    · subst hit; simp [h]
    · simp [hit, Vector.getElem?_set_ne, Ne.symm hit]
  · rename_i h; simp [h]

/-- A write of register 31 is discarded (R41). -/
@[simp] theorem writeX_zeroRegister : s.writeX 31 v = s := by simp [State.writeX]

end WriteX

section AdvancePc

variable (s : State)

@[simp] theorem advancePc_x : s.advancePc.x = s.x := by unfold State.advancePc; split <;> rfl
@[simp] theorem advancePc_el : s.advancePc.el = s.el := by unfold State.advancePc; split <;> rfl
@[simp] theorem advancePc_el2En : s.advancePc.el2En = s.el2En := by
  unfold State.advancePc; split <;> rfl
@[simp] theorem advancePc_hcrTge : s.advancePc.hcrTge = s.hcrTge := by
  unfold State.advancePc; split <;> rfl
@[simp] theorem advancePc_hcrTid3 : s.advancePc.hcrTid3 = s.hcrTid3 := by
  unfold State.advancePc; split <;> rfl
@[simp] theorem advancePc_mem : s.advancePc.mem = s.mem := by
  unfold State.advancePc; split <;> rfl
@[simp] theorem advancePc_context : s.advancePc.context = s.context := by
  unfold State.advancePc; split <;> rfl
@[simp] theorem advancePc_readX (i : Nat) : s.advancePc.readX i = s.readX i := by
  unfold State.readX; rw [advancePc_x]

/-- The program counter moves on by 4 where the sum fits (R42). -/
theorem advancePc_of_fits (h : s.pc.toNat + 4 < addressCount) :
    s.advancePc.pc = s.pc + 4#64 ∧ s.advancePc.freeDraws = s.freeDraws := by
  simp [State.advancePc, h]

/-- Past the top of the address space it is the next free value. -/
theorem advancePc_of_pastTop (h : addressCount ≤ s.pc.toNat + 4) :
    s.advancePc.pc = Config.pcPastTop s.freeDraws ∧
      s.advancePc.freeDraws = s.freeDraws + 1 := by
  simp [State.advancePc, Nat.not_lt.mpr h]

end AdvancePc

end Sys2Proof.Machine
end

