-- ==== Sys2Proof/Laws/Accessor.lean ====
section
/-! SUPPORT. Everything the accessor can do, said once. -/

namespace Sys2Proof.Machine

@[simp] theorem params_idval : Config.params.idval = Config.idval := rfl
@[simp] theorem params_haveIDST : Config.params.haveIDST = Config.haveIDST := rfl

/-- The accessor's outcome is `Read` exactly where the read is enabled. -/
theorem accessOutcome_read_iff (p : Config.Params) (s : State) :
    accessOutcome s.el p.haveIDST s.el2En s.hcrTge s.hcrTid3 = .read ↔ readEnabled s = true := by
  unfold accessOutcome readEnabled
  cases s.el <;> simp
  · split <;> (try split) <;> simp
  · cases s.el2En <;> simp

/-- If the accessor answers a next state, `t` is a register number, the read is enabled, and the state
is the one with `x[t]` written and the program counter moved on. -/
theorem mrsOn_next {p : Config.Params} {t : Nat} {s s' : State} (h : mrsOn p t s = .next s') :
    t ≤ 31 ∧ readEnabled s = true ∧ s' = (s.writeX t p.idval).advancePc := by
  unfold mrsOn at h
  split at h
  · rename_i ht
    split at h
    · rename_i ho
      cases h
      exact ⟨ht, (accessOutcome_read_iff p s).1 ho, rfl⟩
    · cases h
    · cases h
  · cases h

/-- If the accessor ends abnormally, the outcome named is the pseudocode's and the state is left as it
was. -/
theorem mrsOn_fault {p : Config.Params} {t : Nat} {s : State} {f : Fault}
    (h : mrsOn p t s = .fault f) :
    t ≤ 31 ∧
      ((∃ target code, accessOutcome s.el p.haveIDST s.el2En s.hcrTge s.hcrTid3 = .trap target code ∧
          f = .systemAccessTrap target code s) ∨
        (accessOutcome s.el p.haveIDST s.el2En s.hcrTge s.hcrTid3 = .undefined ∧
          f = .undefined s)) := by
  unfold mrsOn at h
  split at h
  · rename_i ht
    split at h
    · cases h
    · rename_i target code ho
      cases h
      exact ⟨ht, .inl ⟨target, code, ho, rfl⟩⟩
    · rename_i ho
      cases h
      exact ⟨ht, .inr ⟨ho, rfl⟩⟩
  · cases h

/-- The accessor refuses only a term that is not well formed. -/
theorem mrsOn_refused {p : Config.Params} {t : Nat} {s : State} {r : Refusal}
    (h : mrsOn p t s = .refused r) : 31 < t ∧ r = .illFormed := by
  unfold mrsOn at h
  split at h
  · split at h <;> cases h
  · rename_i ht
    cases h
    exact ⟨Nat.lt_of_not_le ht, rfl⟩

/-- Which pseudocode outcome a trap comes from: the target level, the code, and the level it leaves. -/
theorem accessOutcome_trap {el : EL} {idst el2En : Bool} {tge tid3 : BitVec 1} {target : EL}
    {code : BitVec 6} (h : accessOutcome el idst el2En tge tid3 = .trap target code) :
    code = trapCode ∧
      ((el = .el0 ∧ target = .el1) ∨ (el = .el0 ∧ target = .el2) ∨ (el = .el1 ∧ target = .el2)) := by
  unfold accessOutcome at h
  split at h
  · split at h
    · split at h <;> cases h <;> simp
    · cases h
  · split at h <;> cases h
    simp
  · cases h
  · cases h

end Sys2Proof.Machine
end

