-- ==== Sys2Proof/Laws/Decode.lean ====
section
/-! SUPPORT. What the decoder answers, said once. -/

namespace Sys2Proof

/-- `Rt` is a 5-bit number (R58). -/
theorem rtField_le (w : InstrWord) : rtField w ≤ 31 := by
  unfold rtField
  have := (Machine.slice w 4 0).isLt
  omega

/-- The accessor case of R57. -/
theorem decodeWord_accessor {w : InstrWord} (h : w &&& opcodeMask = accessorMatch) :
    decodeWord w = .accessor (.mrs (rtField w)) := by
  simp [decodeWord, h]

/-- The write-form case of R57, disjoint from the accessor's. -/
theorem decodeWord_writeForm {w : InstrWord} (h : w &&& opcodeMask = writeFormMatch) :
    decodeWord w = .writeForm (rtField w) := by
  have hne : writeFormMatch ≠ accessorMatch := by decide
  simp [decodeWord, h, hne]

/-- The remaining case of R57. -/
theorem decodeWord_outside {w : InstrWord} (ha : w &&& opcodeMask ≠ accessorMatch)
    (hw : w &&& opcodeMask ≠ writeFormMatch) : decodeWord w = .outside w := by
  simp [decodeWord, ha, hw]

/-- Every instruction the decoder finds is `mrs t` with `t` at most 31. -/
theorem decodeWord_instr {w : InstrWord} {i : Instr} (h : decodeWord w = .accessor i) :
    w &&& opcodeMask = accessorMatch ∧ i = .mrs (rtField w) := by
  unfold decodeWord at h
  split at h
  · rename_i hm
    cases h
    exact ⟨hm, rfl⟩
  · split at h <;> cases h

/-- The same for the decoder over bytes. -/
theorem decodeBytes_instr {bs : List Byte} {i : Instr} (h : decodeBytes bs = .accessor i) :
    ∃ t, t ≤ 31 ∧ i = .mrs t := by
  unfold decodeBytes at h
  split at h
  · exact ⟨_, rtField_le _, (decodeWord_instr h).2⟩
  · cases h

end Sys2Proof
end

