-- ==== Sys2Proof/Laws/Memory.lean ====
section
/-! SUPPORT. The laws of memory: a read after a write, and that every write keeps the canonical form. -/

namespace Sys2Proof.Machine

theorem lookup_insert_same (m : Memory) (a : Nat) (b : Byte) :
    Memory.lookup a (Memory.insert a b m) = some b := by
  induction m with
  | nil => simp [Memory.insert, Memory.lookup]
  | cons e rest ih =>
    obtain ⟨k, c⟩ := e
    unfold Memory.insert
    split
    · simp [Memory.lookup]
    · split
      · simp [Memory.lookup]
      · rename_i hne; simp [Memory.lookup, hne, ih]

theorem lookup_insert_other (m : Memory) (a a' : Nat) (b : Byte) (h : a' ≠ a) :
    Memory.lookup a' (Memory.insert a b m) = Memory.lookup a' m := by
  induction m with
  | nil => simp [Memory.insert, Memory.lookup, h]
  | cons e rest ih =>
    obtain ⟨k, c⟩ := e
    unfold Memory.insert
    split
    · simp [Memory.lookup, h]
    · split
      · rename_i heq; subst heq; simp [Memory.lookup, h]
      · simp [Memory.lookup, ih]

/-- Reading the byte just written gives it. -/
theorem readByte_writeByte_same (m : Memory) (a : Nat) (b : Byte) (h : a < addressCount) :
    Memory.readByte (Memory.writeByte m a b) a = some b := by
  simp [Memory.readByte, Memory.writeByte, h, lookup_insert_same]

/-- A write of one byte leaves every other byte. -/
theorem readByte_writeByte_other (m : Memory) (a a' : Nat) (b : Byte) (h : a' ≠ a) :
    Memory.readByte (Memory.writeByte m a b) a' = Memory.readByte m a' := by
  unfold Memory.readByte Memory.writeByte
  split
  · split
    · exact lookup_insert_other m a a' b h
    · rfl
  · rfl

/-- A write of bytes from `a` up leaves every byte outside them. -/
theorem readByte_writeBytes_outside (bs : List Byte) :
    ∀ (m : Memory) (a a' : Nat), (a' < a ∨ a + bs.length ≤ a') →
      Memory.readByte (Memory.writeBytes m a bs) a' = Memory.readByte m a' := by
  induction bs with
  | nil => intro m a a' _; rfl
  | cons b bs ih =>
    intro m a a' h
    simp only [List.length_cons] at h
    rw [Memory.writeBytes, ih _ _ _ (by omega), readByte_writeByte_other _ _ _ _ (by omega)]

theorem risingFrom_insert (m : Memory) (a : Nat) (b : Byte) (h : a < addressCount) :
    ∀ lo, lo ≤ a → Memory.risingFrom lo m = true →
      Memory.risingFrom lo (Memory.insert a b m) = true := by
  induction m with
  | nil => intro lo hlo _; simp [Memory.insert, Memory.risingFrom, hlo, h]
  | cons e rest ih =>
    obtain ⟨k, c⟩ := e
    intro lo hlo hm
    simp only [Memory.risingFrom, Bool.and_eq_true, decide_eq_true_eq] at hm
    unfold Memory.insert
    split
    · rename_i hlt
      simp only [Memory.risingFrom, Bool.and_eq_true, decide_eq_true_eq]
      exact ⟨⟨hlo, h⟩, ⟨by omega, hm.1.2⟩, hm.2⟩
    · split
      · rename_i heq
        subst heq
        simp only [Memory.risingFrom, Bool.and_eq_true, decide_eq_true_eq]
        exact hm
      · simp only [Memory.risingFrom, Bool.and_eq_true, decide_eq_true_eq]
        exact ⟨hm.1, ih _ (by omega) hm.2⟩

/-- A write of one byte keeps the canonical form. -/
theorem wf_writeByte (m : Memory) (a : Nat) (b : Byte) (h : Memory.wf m = true) :
    Memory.wf (Memory.writeByte m a b) = true := by
  unfold Memory.writeByte
  split
  · exact risingFrom_insert m a b ‹_› 0 (Nat.zero_le _) h
  · exact h

/-- A write of bytes keeps the canonical form. -/
theorem wf_writeBytes (bs : List Byte) : ∀ (m : Memory) (a : Nat), Memory.wf m = true →
    Memory.wf (Memory.writeBytes m a bs) = true := by
  induction bs with
  | nil => intro m a h; exact h
  | cons b bs ih => intro m a h; exact ih _ _ (wf_writeByte m a b h)

/-- Storing an instruction word at `pc` keeps the canonical form. -/
theorem wf_storeAtPc (s : State) (w : InstrWord) (h : Memory.wf s.mem = true) :
    Memory.wf (storeAtPc s w).mem = true :=
  wf_writeBytes _ _ _ h

/-- The memory right after reset has the canonical form. -/
theorem wf_reset : Memory.wf State.reset.mem = true := rfl

end Sys2Proof.Machine
end

