-- ==== Sys2Proof/Laws/PerInstr.lean ====
section
/-! SUPPORT. Facts about every instruction as syntax, one lemma per constructor. -/

namespace Sys2Proof.Laws.FormatFields

/-- The fixed bits, the direction and the five coordinates stand in the instruction's word at the
places R55 gives them, with the values of R54, whatever the destination. -/
def Statement (i : Instr) : Prop :=
  i.wellFormed = true →
    Machine.slice (encode i) 31 22 = 0b1101010100#10 ∧ Machine.slice (encode i) 21 21 = 1#1 ∧
    Machine.slice (encode i) 20 19 = 0b11#2 ∧ Machine.slice (encode i) 18 16 = 0b000#3 ∧
    Machine.slice (encode i) 15 12 = 0b0000#4 ∧ Machine.slice (encode i) 11 8 = 0b0111#4 ∧
    Machine.slice (encode i) 7 5 = 0b001#3

theorem mrs (t : Nat) : Statement (.mrs t) := by
  intro h
  have ht : t ≤ 31 := by simpa [Instr.wellFormed] using h
  clear h
  revert t
  decide

end Sys2Proof.Laws.FormatFields
end

