-- ==== Sys2Proof/Laws/Step.lean ====
section
/-! SUPPORT. Everything a step can do, said once. -/

namespace Sys2Proof.Machine

/-- If a step answers a next state, an accessor word was read, the read is enabled, and one register
and the program counter are written. -/
theorem step_next {s s' : State} (h : step s = .next s') :
    ∃ t, t ≤ 31 ∧ readEnabled s = true ∧ s' = (s.writeX t Config.params.idval).advancePc := by
  unfold step at h
  split at h
  · unfold issue at h
    split at h
    · rename_i i hi
      obtain ⟨t, ht, rfl⟩ := decodeBytes_instr hi
      exact ⟨t, ht, (mrsOn_next (t := t) h).2⟩
    · cases h
    · cases h
    · cases h
  · cases h

/-- If a step ends abnormally, it is the accessor's own abnormal ending or the write form's. -/
theorem step_fault {s : State} {f : Fault} (h : step s = .fault f) :
    (∃ t, t ≤ 31 ∧ mrsOn Config.params t s = .fault f) ∨ f = .undefined s := by
  unfold step at h
  split at h
  · unfold issue at h
    split at h
    · rename_i i hi
      obtain ⟨t, ht, rfl⟩ := decodeBytes_instr hi
      exact .inl ⟨t, ht, h⟩
    · cases h
      exact .inr rfl
    · cases h
    · cases h
  · cases h

end Sys2Proof.Machine
end

