-- ==== Sys2Proof/Tests/Slice0.lean ====
section
/-! SUPPORT. Small tests, each expected result taken from spec/95_test_vectors.md or written out from
the rule it names, and for every statement a witness that meets its hypotheses. -/

namespace Sys2Proof.Tests.Slice0

open Sys2Proof.Machine

/-! ### Helpers -/

/-- A state at level `el` with the given context inputs and `pc`, the rest as after reset. -/
def testState (el : EL) (el2En : Bool) (tge tid3 : BitVec 1) (pc : Word) : State :=
  { State.reset with el := el, el2En := el2En, hcrTge := tge, hcrTid3 := tid3, pc := pc }

/-- A PE with the given `IDVAL` and `HaveIDST`. -/
def testPe (v : Word) (idst : Bool) : Config.Params :=
  { idval := v, haveIDST := idst, haveRAS := true, haveEL2 := true, haveFP := true, archVer := .v8_2 }

/-- The next state, where there is one. -/
def nextOf : Host.Outcome State Fault Refusal → Option State
  | .next s => some s
  | .fault _ | .refused _ => none

/-- The fault, where there is one. -/
def faultOf : Host.Outcome State Fault Refusal → Option Fault
  | .fault f => some f
  | .next _ | .refused _ => none

/-- The refusal, where there is one. -/
def refusalOf : Host.Outcome State Fault Refusal → Option Refusal
  | .refused r => some r
  | .next _ | .fault _ => none

/-- An EL1 state whose accessor traps to EL2. -/
def trappingState : State := testState .el1 true 0#1 1#1 0#64

/-- The last address a whole word fits at. -/
def topPc : Word := 0xFFFFFFFFFFFFFFFC#64

/-! ### Decoding (95_test_vectors.md 2.1) -/

theorem test_decode_x0 :
    decodeWord 0b11010101001110000000011100100000#32 = .accessor (.mrs 0) := by decide
theorem test_decode_x17 :
    decodeWord 0b11010101001110000000011100110001#32 = .accessor (.mrs 17) := by decide
theorem test_decode_x30 :
    decodeWord 0b11010101001110000000011100111110#32 = .accessor (.mrs 30) := by decide
theorem test_decode_xzr :
    decodeWord 0b11010101001110000000011100111111#32 = .accessor (.mrs 31) := by decide
theorem test_decode_write_form_x0 :
    decodeWord 0b11010101000110000000011100100000#32 = .writeForm 0 := by decide
theorem test_decode_write_form_x31 :
    decodeWord 0b11010101000110000000011100111111#32 = .writeForm 31 := by decide

/-- The twelve words of 2.1 outside the spec, one bit from the accessor or well away from it. -/
theorem test_decode_outside :
    ([0xD5380700#32, 0xD5380740#32, 0xD5380620#32, 0xD5380820#32, 0xD5381720#32, 0xD5390720#32,
      0xD5300720#32, 0xD5280720#32, 0xD5780720#32, 0x55380720#32, 0x00000000#32, 0xD503201F#32].all
      fun w => decide (decodeWord w = .outside w)) = true := by decide

theorem test_bytes_x5 :
    decodeBytes [0x25#8, 0x07#8, 0x38#8, 0xD5#8] = .accessor (.mrs 5) := by decide
theorem test_bytes_of_xzr :
    encodeBytes (.mrs 31) = [0x3F#8, 0x07#8, 0x38#8, 0xD5#8] := by decide
theorem test_bytes_too_few : decodeBytes [0x25#8, 0x07#8, 0x38#8] = .truncated := by decide
theorem test_table_word_x5 : decodeTableWord 32 0xD5380725 = some (.mrs 5) := by decide
theorem test_table_word_write_form : decodeTableWord 32 0xD5180725 = none := by decide

/-! ### Well-formedness -/

theorem test_wellFormed_last : (Instr.mrs 31).wellFormed = true := by decide
theorem test_wellFormed_refuses : (Instr.mrs 32).wellFormed = false := by decide

/-- An ill-formed register value for each of the sixteen checks of R33. -/
theorem test_wf_refuses_each_field :
    (allFields.all fun f => !wf true (assemble fun g => if g = f then 5 else 0)) = true := by decide

/-- V0 to V9 and B1 to B6 of 2.3, with FEAT_RAS and without, and the first failing field. -/
theorem test_wf_table :
    (([0x0#64, 0x111100#64, 0x10211100#64, 0x10212122#64, 0x1010311100#64, 0x111010311100#64,
        0x0110111010311100#64, 0x1110111010311100#64].all fun v => wf true v && wf false v) &&
      ([0x1111111111312123#64, 0x1000000#64].all fun v => wf true v && !wf false v)) = true ∧
    [0x400000#64, 0x10#64, 0x3000#64, 0xFEDCBA9876543210#64, 0x2000000000000000#64, 0x4#64].map
        (fun v => refusedField (testPe v true)) =
      [some .pan, some .vmidBits, some .hpds, some .ecbhb, some .ecbhb, some .hafdbs] := by decide

/-! ### Fields (2.2, 2.3) -/

/-- B4: sixteen distinct nibbles. -/
theorem test_fields_distinct_nibbles :
    allFields.map (fun f => fieldOf f 0xFEDCBA9876543210#64) =
      [15, 14, 13, 12, 11, 10, 9, 8, 7, 6, 5, 4, 3, 2, 1, 0] := by decide

/-- "Reassembly" of 2.2: the fields of V8 give V8. -/
theorem test_reassembly :
    assemble (fun
      | .pan => 3 | .hpds => 2 | .vmidBits => 2 | .hafdbs => 3 | _ => 1) = 0x1111111111312123#64 := by
  decide

theorem test_vmidWidth :
    [0x0#64, 0x10212122#64, 0x10#64].map vmidWidth = [some 8, some 16, none] := by decide

/-- V4 and V5 in Armv8.7, with and without EL2 and floating-point: rows V4 and V5 of 2.3. -/
theorem test_permitted_v8_7 :
    [permitted 0x1010311100#64 .v8_7 true true, permitted 0x1010311100#64 .v8_7 false false,
      permitted 0x111010311100#64 .v8_7 true true, permitted 0x111010311100#64 .v8_8 true true] =
      [false, true, true, false] := by decide

/-! ### The accessor -/

/-- The worked example of R63. -/
theorem test_mrs_worked_example :
    (nextOf (mrsOn (testPe 0x10212122#64 true) 5 (testState .el1 false 0#1 1#1 0x1000#64))).map
      (fun s => (s.readX 5, s.readX 4, s.pc)) =
      some (some 0x10212122#64, some 0#64, 0x1004#64) := by decide

/-- The 64 rows of 2.4, by their counts: 8 `Undefined`, 6 and 6 traps, 44 reads. -/
theorem test_outcome_counts :
    let rows := [EL.el0, .el1, .el2, .el3].flatMap fun el => [true, false].flatMap fun idst =>
      [true, false].flatMap fun en => [0#1, 1#1].flatMap fun tge => [0#1, 1#1].map fun tid3 =>
        accessOutcome el idst en tge tid3
    [AccessOutcome.undefined, .trap .el1 0x18#6, .trap .el2 0x18#6, .read].map (rows.count ·) =
      [8, 6, 6, 44] := by decide

/-- The write form (2.5, last row): `Undefined`, the state left as it was. -/
theorem test_write_form_undefined :
    faultOf (step ((testState .el3 true 1#1 1#1 0#64).withFetchWord 32 0xD5180720)) =
      some (.undefined ((testState .el3 true 1#1 1#1 0#64).withFetchWord 32 0xD5180720)) := by decide

/-- A word that is no accessor is refused and named (R61). -/
theorem test_other_word_refused :
    refusalOf (step (State.reset.withFetchWord 32 0x00000000)) = some (.notAccessor 0x0#32) := by decide

/-! ### Assembler and syndrome (R62, 2.4) -/

theorem test_asm_text :
    asmText ⟨.x 5, .named⟩ = "MRS X5, ID_AA64MMFR1_EL1" ∧
      asmText ⟨.xzr, .generic⟩ = "MRS XZR, S3_0_C0_C7_1" := by decide
theorem test_asm_no_x31 : assembleLine ⟨.x 31, .named⟩ = none := by decide
theorem test_syndrome :
    [trapEsr 0, trapEsr 5, trapEsr 31] = [0x6232000F#32, 0x623200AF#32, 0x623203EF#32] := by decide

/-! ### Witnesses: for each statement with hypotheses, a state and operands that meet them -/

/-- For DecodeAndEncodeAgree and AssemblerLinesRoundTrip. -/
theorem witness_wellFormedInstruction : (Instr.mrs 31).wellFormed = true ∧ (Instr.mrs 0).wellFormed = true := by
  decide

theorem witness_BytesAreLittleEndian : ([0#8, 1#8, 2#8] : List Byte).length < 4 := by decide

theorem witness_StepRunsDecodedInstruction :
    fetchBytes (State.reset.withFetchWord 32 0xD538073F) = some (encodeBytes (.mrs 31)) ∧
      decodeBytes (encodeBytes (.mrs 31)) = .accessor (.mrs 31) ∧
      (Instr.mrs 31).wellFormed = true := by decide

/-- An accessor word, a write form and a word outside, each standing at `pc`. -/
theorem witness_StepOnEveryWord :
    fetchBytes (storeAtPc State.reset 0xD538073F#32) = some (wordBytes 0xD538073F#32) ∧
      fetchBytes (storeAtPc State.reset 0xD518073F#32) = some (wordBytes 0xD518073F#32) ∧
      fetchBytes (storeAtPc State.reset 0xD5380740#32) = some (wordBytes 0xD5380740#32) := by decide

/-- Only the last byte of the word is missing. -/
theorem witness_NoWordAtPcIsRefused :
    ∃ k, k < 4 ∧ Memory.readByte [(0, 0#8), (1, 0#8), (2, 0#8)] ((0#64).toNat + k) = none :=
  ⟨3, by decide⟩

theorem witness_PlacedWordIsFetched :
    (testState .el3 false 0#1 0#1 topPc).pc.toNat + 4 ≤ addressCount ∧
      (testState .el3 false 0#1 0#1 topPc).Inv := by
  exact ⟨by decide, rfl⟩

/-- The first operand no encoding holds, and the refusal it gets. -/
theorem witness_IllFormedTermIsRefused :
    31 < 32 ∧ refusalOf (exec (.mrs 32) State.reset) = some .illFormed := by decide

/-- Each of the two conditions at EL1, with `pc` at the last address whose successor fits and at the
first whose does not. -/
theorem witness_ReadCompletesAtEl1 :
    (testState .el1 false 0#1 1#1 0xFFFFFFFFFFFFFFFB#64).el = .el1 ∧
      (testState .el1 false 0#1 1#1 0xFFFFFFFFFFFFFFFB#64).el2En = false ∧
      (testState .el1 false 0#1 1#1 0xFFFFFFFFFFFFFFFB#64).pc.toNat + 4 < addressCount ∧
      (testState .el1 true 0#1 0#1 topPc).el = .el1 ∧
      (testState .el1 true 0#1 0#1 topPc).hcrTid3 = 0#1 ∧
      addressCount ≤ (testState .el1 true 0#1 0#1 topPc).pc.toNat + 4 := by decide

theorem witness_ReadCompletesAtEl2AndEl3 :
    (testState .el2 true 1#1 1#1 topPc).el = .el2 ∧ (testState .el3 true 1#1 1#1 0#64).el = .el3 := by
  decide

theorem witness_DestinationNumberCornerCases :
    readEnabled (testState .el2 true 1#1 1#1 0#64) = true ∧
      (testState .el2 true 1#1 1#1 0#64).pc.toNat + 4 < addressCount ∧
      exec (.mrs 0) trappingState = .fault (.systemAccessTrap .el2 0x18#6 trappingState) := by
  exact ⟨by decide, by decide, rfl⟩

theorem witness_UndefinedAtEl0WithoutIdst :
    (testState .el0 true 1#1 1#1 0#64).el = .el0 ∧ (testPe 0#64 false).haveIDST = false := by decide

/-- Both sides of the routing test. -/
theorem witness_TrapsAtEl0WithIdst :
    (testState .el0 true 1#1 0#1 0#64).el = .el0 ∧ (testPe 0#64 true).haveIDST = true ∧
      (testState .el0 true 1#1 0#1 0#64).el2En = true ∧
      (testState .el0 true 1#1 0#1 0#64).hcrTge = 1#1 ∧
      (testState .el0 false 1#1 0#1 0#64).el = .el0 ∧
      (testState .el0 false 1#1 0#1 0#64).el2En = false := by decide

theorem witness_TrapAtEl1ToEl2 :
    trappingState.el = .el1 ∧ trappingState.el2En = true ∧ trappingState.hcrTid3 = 1#1 := by decide

/-- Also for El0LearnsNothingOfIdval and El0NeverCompletes. -/
theorem witness_ExecAtEl0 : (testState .el0 false 0#1 0#1 0#64).el = .el0 := by decide

/-- Two EL0 executions that agree on what is consulted and differ in TGE, which `EL2En` FALSE hides,
in TID3, in `IDVAL`, in `pc` and in the destination; and two at EL1 that differ in TGE. -/
theorem witness_OnlyConsultedInputsMatter :
    (testState .el0 false 0#1 0#1 0#64).el = (testState .el0 false 1#1 1#1 topPc).el ∧
      (testPe 1#64 true).haveIDST = (testPe 2#64 true).haveIDST ∧
      (testState .el0 false 0#1 0#1 0#64).el2En = (testState .el0 false 1#1 1#1 topPc).el2En ∧
      (testState .el0 false 0#1 0#1 0#64).el2En ≠ true ∧
      (testState .el1 true 0#1 1#1 0#64).el = (testState .el1 true 1#1 1#1 topPc).el ∧
      (testState .el1 true 0#1 1#1 0#64).el2En = (testState .el1 true 1#1 1#1 topPc).el2En ∧
      (testState .el1 true 0#1 1#1 0#64).hcrTid3 = (testState .el1 true 1#1 1#1 topPc).hcrTid3 := by
  decide

theorem witness_RoutingByHcrEl2 :
    (testState .el0 false 1#1 1#1 0#64).el = .el0 ∧ (testPe 0#64 true).haveIDST = true ∧
      (testPe 0#64 false).haveIDST = false ∧ (testState .el0 false 1#1 1#1 0#64).el2En = false ∧
      (testState .el1 false 1#1 1#1 0#64).el = .el1 ∧ (testState .el2 true 1#1 1#1 0#64).el = .el2 := by
  decide

/-- Two completed reads, one after the other, into different registers: for AnyTwoReadsAgree and
ReadsCommute. -/
theorem witness_completedReads :
    exec (.mrs 0) State.reset = .next (State.reset.writeX 0 Config.params.idval).advancePc ∧
      exec (.mrs 30) (State.reset.writeX 0 Config.params.idval).advancePc =
        .next ((State.reset.writeX 0 Config.params.idval).advancePc.writeX 30
          Config.params.idval).advancePc := ⟨rfl, rfl⟩

theorem witness_AbnormalEndingRepeats :
    exec (.mrs 31) trappingState = .fault (.systemAccessTrap .el2 0x18#6 trappingState) := rfl

theorem witness_TrapsGoStrictlyHigher :
    step (trappingState.withFetchWord 32 0xD5380720) =
      .fault (.systemAccessTrap .el2 0x18#6 (trappingState.withFetchWord 32 0xD5380720)) := rfl

theorem witness_AbnormalEndingsArePrecise :
    step (State.reset.withFetchWord 32 0xD5180720) =
      .fault (.undefined (State.reset.withFetchWord 32 0xD5180720)) := rfl

theorem witness_El3NeitherTrapsNorIsTarget : State.reset.el = .el3 := rfl

/-- For EveryStepIsARead and StepKeepsCanonicalMemory. -/
theorem witness_completedStep :
    (State.reset.withFetchWord 32 0xD5380725).Inv ∧
      ∃ s', step (State.reset.withFetchWord 32 0xD5380725) = .next s' := ⟨rfl, ⟨_, rfl⟩⟩

/-- A predicate that holds of `IDVAL` and of every register, and a run of one step under EL2. -/
theorem witness_OnlyIdvalEntersRegisters :
    ((Config.idval = 0#64 ∨ Config.idval = Config.idval) ∧
      ∀ i v, (State.reset.withFetchWord 32 0xD5380725).readX i = some v →
        v = 0#64 ∨ v = Config.idval) ∧
    ∃ s', runUnder [⟨.el2, true, 1#1, 1#1⟩] (State.reset.withFetchWord 32 0xD5380725) = .next s' := by
  refine ⟨⟨.inr rfl, fun i v h => .inl ?_⟩, ⟨_, rfl⟩⟩
  have h' : (Vector.replicate 31 (0#64))[i]? = some v := h
  rw [Vector.getElem?_replicate] at h'
  split at h'
  · exact (Option.some.inj h').symm
  · cases h'

/-- A run of two accessor words, one of them into the zero register. -/
theorem witness_RunOfAccessorWordsCompletes :
    let s : State := { State.reset with
      mem := Memory.writeBytes [] 0 ([0, 31].flatMap fun t => encodeBytes (.mrs t)) }
    (∀ t ∈ [0, 31], t ≤ 31) ∧ readEnabled s = true ∧ s.pc.toNat + 4 * 2 < addressCount ∧
      Memory.readBytes s.mem s.pc.toNat (4 * 2) =
        some ([0, 31].flatMap fun t => encodeBytes (.mrs t)) := by decide

/-- A run whose first step traps, and one that ends in the write form after a completed read (P4 of
95_test_vectors.md, its first two words). -/
theorem witness_AbnormalOutcomeIsFinal :
    Sys2Proof.core.run 1 (trappingState.withFetchWord 32 0xD5380720) =
        .fault (.systemAccessTrap .el2 0x18#6 (trappingState.withFetchWord 32 0xD5380720)) ∧
      ∃ left, Sys2Proof.core.run 2 { State.reset with
          mem := Memory.writeBytes [] 0 (encodeBytes (.mrs 30) ++ wordBytes 0xD5180723#32) } =
        .fault (.undefined left) := ⟨rfl, ⟨_, rfl⟩⟩

theorem witness_ResetLeavesIdval :
    readEnabled (State.reset.withContext ⟨.el1, true, 1#1, 0#1⟩) = true := by decide

theorem witness_ExtractionAndItsInverse :
    (0 ≤ 63 ∧ 63 ≤ 63) ∧ ∀ f : IdField, (fun (_ : IdField) => 15) f ≤ 15 := by
  exact ⟨by decide, fun _ => Nat.le_refl _⟩

theorem witness_RefusedFieldIsTheFirstUndefined :
    refusedField (testPe 0x10#64 true) = some .vmidBits ∧ lsb .vmidBits < lsb .ecbhb := by decide

theorem witness_PermittedIsTheTableOfSentences :
    wf true 0x1111111111312123#64 = true ∧ verOrd .v8_6 < 7 := by decide

theorem witness_PermittedOnlyTightens :
    verOrd .v8_1 ≤ verOrd .v8_2 ∧ permitted 0x10211100#64 .v8_2 true true = true := by decide

theorem witness_VmidWidthByVmidBits : wf false 0x20#64 = true := by decide

theorem witness_WhatAReaderMayConclude :
    meanings (testPe 0#64 true) .specSei 1 = some [.specSErrorMight] := by decide

theorem witness_HigherValuesAddMeanings :
    meanings (testPe 0#64 true) .pan 1 = some [.panSupported] ∧
      meanings (testPe 0#64 true) .pan 3 =
        some [.panSupported, .atPanInstructionsSupported, .epanBitsSupported] := by decide

theorem witness_FeatureValuesAreDefined : 3 ∈ (featureRow .haft).values := by decide

theorem witness_AssemblerLinesRoundTrip :
    asmInstr ⟨.x 30, .named⟩ = some (.mrs 30) ∧ asmInstr ⟨.xzr, .generic⟩ = some (.mrs 31) := by decide

end Sys2Proof.Tests.Slice0
end

/-! The register's layout (R4, R14): extraction by shift and mask is slicing, and the lowest bits of
the sixteen fields are the multiples of 4 below 64, so a bit's field is given by its number over 4. -/

namespace Sys2Proof.Proofs.FieldLayout

open Sys2Proof.Machine

/-- R74's mask has its lowest `k` bits set, the full width included, where the shift overflows to 0. -/
theorem toNat_shiftLeft_sub_one {k : Nat} (hk : k ≤ 64) : (1#64 <<< k - 1#64).toNat = 2 ^ k - 1 := by
  obtain rfl | hlt := hk.eq_or_lt
  · rfl
  · have hpow : 2 ^ k < 2 ^ 64 := Nat.pow_lt_pow_right (by decide) hlt
    have hshift : (1#64 <<< k).toNat = 2 ^ k := by
      rw [BitVec.toNat_shiftLeft, Nat.shiftLeft_eq, BitVec.toNat_ofNat, Nat.one_mod_two_pow (by decide),
        one_mul, Nat.mod_eq_of_lt hpow]
    have hle : 1#64 ≤ 1#64 <<< k := by
      rw [BitVec.le_def, hshift]
      exact Nat.one_le_two_pow
    rw [BitVec.toNat_sub_of_le hle, hshift]
    rfl

/-- Extraction is R74's remainder of the shifted value, for every range inside the register. -/
theorem field_eq_mod (v : Word) {hi lo : Nat} (hlo : lo ≤ hi) (hhi : hi ≤ 63) :
    field v hi lo = (v.toNat >>> lo) % 2 ^ (hi - lo + 1) := by
  have hwidth : hi - lo + 1 ≤ 64 := by omega
  rw [field, BitVec.toNat_and, toNat_shiftLeft_sub_one hwidth, Nat.and_two_pow_sub_one_eq_mod,
    BitVec.toNat_ushiftRight]

theorem field_eq_slice (v : Word) {hi lo : Nat} (hlo : lo ≤ hi) (hhi : hi ≤ 63) :
    field v hi lo = (slice v hi lo).toNat := by
  rw [field_eq_mod v hlo hhi, slice, BitVec.extractLsb_toNat]

theorem lsb_mod_four (f : IdField) : lsb f % 4 = 0 := by cases f <;> rfl

theorem msb_lt (f : IdField) : msb f < 64 := by cases f <;> decide

theorem fieldOf_eq_slice (f : IdField) (v : Word) :
    fieldOf f v = (slice v (msb f) (lsb f)).toNat :=
  field_eq_slice v (Nat.le_add_right _ 3) (Nat.le_of_lt_succ (msb_lt f))

/-- R14 lists the fields from the top: the field with lowest bit `4 * k` stands at place `15 - k`. -/
theorem allFields_getElem?_lsb (f : IdField) : allFields[15 - lsb f / 4]? = some f := by
  cases f <;> rfl

theorem lsb_injective {f g : IdField} (h : lsb f = lsb g) : f = g := by
  have hf := allFields_getElem?_lsb f
  rw [h, allFields_getElem?_lsb g] at hf
  exact (Option.some.inj hf).symm

theorem exists_lsb_eq {k : Nat} (hk : k < 16) : ∃ f, lsb f = 4 * k := by
  have hall : ∀ k < 16, ∃ f ∈ allFields, lsb f = 4 * k := by decide
  obtain ⟨f, -, hf⟩ := hall k hk
  exact ⟨f, hf⟩

theorem bit_mem_field_iff (f : IdField) (b : Nat) :
    (lsb f ≤ b ∧ b ≤ msb f) ↔ lsb f = 4 * (b / 4) := by
  have hmod := lsb_mod_four f
  rw [msb]
  omega

theorem bit_in_exactly_one_field {b : Nat} (hb : b < 64) :
    ∃ f, (lsb f ≤ b ∧ b ≤ msb f) ∧ ∀ g, lsb g ≤ b ∧ b ≤ msb g → g = f := by
  obtain ⟨f, hf⟩ : ∃ f, lsb f = 4 * (b / 4) := exists_lsb_eq (by omega)
  refine ⟨f, (bit_mem_field_iff f b).2 hf, fun g hg => lsb_injective ?_⟩
  rw [(bit_mem_field_iff g b).1 hg, hf]

/-- Settles O36: the tiling by the multiples of 4 the lowest bits are, and each named slice by
`fieldOf_eq_slice` at its field. -/
theorem fieldsTileTheRegister : Obligations.FieldsTileTheRegister := by
  refine ⟨fun b hb => bit_in_exactly_one_field hb, fun f => ⟨rfl, msb_lt f⟩, fun v => ?_⟩
  have named (f : IdField) := fieldOf_eq_slice f v
  exact ⟨named .ecbhb, named .cmow, named .tidcp1, named .ntlbpa, named .afp, named .hcx,
    named .ets, named .twed, named .xnx, named .specSei, named .pan, named .lo,
    named .hpds, named .vh, named .vmidBits, named .hafdbs⟩

end Sys2Proof.Proofs.FieldLayout

/-! The permitted values (R35): the rows of the source's table, field by field, as implications from
their version conditions, and the well-formedness that makes three of them hold. -/

namespace Sys2Proof.Proofs.PermittedTable

open Sys2Proof.Machine
open Sys2Proof.Proofs.FieldLayout (allFields_getElem?_lsb fieldOf_eq_slice)

theorem mem_allFields (f : IdField) : f ∈ allFields :=
  List.mem_of_getElem? (allFields_getElem?_lsb f)

theorem allFields_all_iff (P : IdField → Bool) : allFields.all P = true ↔ ∀ f, P f = true :=
  List.all_eq_true.trans ⟨fun h f => h f (mem_allFields f), fun h f _ => h f⟩

/-- A statement about every field, written out in the order of R14. -/
theorem forall_idField {P : IdField → Prop} :
    (∀ f, P f) ↔
      P .ecbhb ∧ P .cmow ∧ P .tidcp1 ∧ P .ntlbpa ∧ P .afp ∧ P .hcx ∧ P .ets ∧ P .twed ∧
      P .xnx ∧ P .specSei ∧ P .pan ∧ P .lo ∧ P .hpds ∧ P .vh ∧ P .vmidBits ∧ P .hafdbs := by
  refine ⟨fun h => by simp only [h, and_self], fun h f => ?_⟩
  obtain ⟨_, _, _, _, _, _, _, _, _, _, _, _, _, _, _, _⟩ := h
  cases f <;> assumption

theorem wf_iff (haveRAS : Bool) (v : Word) :
    wf haveRAS v = true ↔ ∀ f, fieldOf f v ∈ defined haveRAS f :=
  (allFields_all_iff _).trans (forall_congr' fun _ => List.contains_iff_mem)

theorem permitted_iff (v : Word) (ver : Config.ArchVer) (haveEL2 haveFP : Bool) :
    permitted v ver haveEL2 haveFP = true ↔
      ∀ f, permittedField ver haveEL2 haveFP f (fieldOf f v) = true :=
  allFields_all_iff _

/-- R8's order, 8.0 first. -/
theorem verOrd_places :
    verOrd .v8_0 = 0 ∧ verOrd .v8_1 = 1 ∧ verOrd .v8_2 = 2 ∧ verOrd .v8_3 = 3 ∧ verOrd .v8_4 = 4 ∧
    verOrd .v8_5 = 5 ∧ verOrd .v8_6 = 6 ∧ verOrd .v8_7 = 7 ∧ verOrd .v8_8 = 8 ∧ verOrd .v8_9 = 9 := by
  decide

/-- The rows of R35's table for one field, with the version given by its place `k` in the order of R8.
ETS has two rows and PAN three; SpecSEI and HAFDBS have none. -/
def Rows (k : Nat) (haveEL2 haveFP : Bool) (n : Nat) : IdField → Prop
  | .ecbhb => 9 ≤ k → n ≠ 0
  | .cmow => 8 ≤ k → n = 1
  | .tidcp1 => 8 ≤ k → n = 1
  | .ntlbpa => n ∈ [0, 1]
  | .afp => 7 ≤ k → haveFP = true → n = 1
  | .hcx => 7 ≤ k → haveEL2 = true → n = 1
  | .ets => (k < 7 → n ∈ [0, 1]) ∧ (7 ≤ k → n = 1)
  | .twed => 6 ≤ k → n ∈ [0, 1]
  | .xnx => 2 ≤ k → n = 1
  | .specSei => True
  | .pan => (k = 1 → n ∈ [1, 2, 3]) ∧ (2 ≤ k → k < 7 → n ∈ [2, 3]) ∧ (7 ≤ k → n = 3)
  | .lo => 1 ≤ k → n = 1
  | .hpds => 1 ≤ k → n ≠ 0
  | .vh => 1 ≤ k → n = 1
  | .vmidBits => 1 ≤ k → n ∈ [0, 2]
  | .hafdbs => True

/-- ETS's test chooses one of two branches by the version; each is a row under its own condition. -/
theorem permittedField_ets_iff (ver : Config.ArchVer) (haveEL2 haveFP : Bool) (n : Nat) :
    permittedField ver haveEL2 haveFP .ets n = true ↔ Rows (verOrd ver) haveEL2 haveFP n .ets := by
  by_cases h7 : 7 ≤ verOrd ver
  · simp [permittedField, Rows, fromVer, verOrd_places, h7]
  · simp [permittedField, Rows, fromVer, verOrd_places, h7, Nat.lt_of_not_le h7]

/-- PAN's test has one branch per row (8.7 and later, 8.2 to 8.6, 8.1) and one for 8.0, which has none. -/
theorem permittedField_pan_iff (ver : Config.ArchVer) (haveEL2 haveFP : Bool) (n : Nat) :
    permittedField ver haveEL2 haveFP .pan n = true ↔ Rows (verOrd ver) haveEL2 haveFP n .pan := by
  simp only [permittedField, Rows, fromVer, verOrd_places]
  obtain h7 | ⟨h2, h7⟩ | h1 | h0 :
      7 ≤ verOrd ver ∨ (2 ≤ verOrd ver ∧ verOrd ver < 7) ∨ verOrd ver = 1 ∨ verOrd ver = 0 := by
    omega
  · have h2 : 2 ≤ verOrd ver := by omega
    have h1 : verOrd ver ≠ 1 := by omega
    simp [h7, h2, h1, Nat.not_lt.2 h7]
  · have h1 : verOrd ver ≠ 1 := by omega
    simp [h7, h2, h1, Nat.not_le.2 h7]
  · simp [h1, or_assoc]
  · simp [h0]

/-- The model's test of a field is the field's rows of the table. -/
theorem permittedField_iff_rows (ver : Config.ArchVer) (haveEL2 haveFP : Bool) (f : IdField) (n : Nat) :
    permittedField ver haveEL2 haveFP f n = true ↔ Rows (verOrd ver) haveEL2 haveFP n f := by
  cases f with
  | ets => exact permittedField_ets_iff ver haveEL2 haveFP n
  | pan => exact permittedField_pan_iff ver haveEL2 haveFP n
  | ecbhb | cmow | tidcp1 | ntlbpa | afp | hcx | twed | xnx | specSei | lo | hpds | vh | vmidBits
  | hafdbs =>
    simp [permittedField, Rows, fromVer, verOrd_places, imp_iff_not_or, or_assoc]

/-- `Permitted` is the table: every field's slice satisfies the field's rows. -/
theorem permitted_iff_rows (v : Word) (ver : Config.ArchVer) (haveEL2 haveFP : Bool) :
    permitted v ver haveEL2 haveFP = true ↔
      ∀ f, Rows (verOrd ver) haveEL2 haveFP (slice v (msb f) (lsb f)).toNat f := by
  simp only [permitted_iff, permittedField_iff_rows, fieldOf_eq_slice]

/-- Settles O41: the table by writing `permitted_iff_rows` out field by field, and the three rows that
add nothing because each asks for 0 or 1, which `WF` already leaves as the only values. -/
theorem permittedIsTheTableOfSentences : Obligations.PermittedIsTheTableOfSentences := by
  refine ⟨fun v ver haveEL2 haveFP => ?_, fun haveRAS v ver haveEL2 haveFP hwf => ?_⟩
  · simp only [permitted_iff_rows, forall_idField, Rows, true_and, and_true, and_assoc]
    exact Iff.rfl
  · have hdef := (wf_iff haveRAS v).1 hwf
    simp only [permittedField_iff_rows]
    exact ⟨hdef .ntlbpa, fun h7 => ⟨fun _ => hdef .ets, fun hge => absurd h7 (Nat.not_lt.2 hge)⟩,
      fun _ => hdef .twed⟩

end Sys2Proof.Proofs.PermittedTable

/-! The 32-bit words (R54 to R61). A word is read as a number: its fixed bits are a multiple of 32 and
its `Rt` the remainder, so R57's mask test is division by 32, R56's `|` is a sum, and each format field
of R55 is a quotient and a remainder. -/

namespace Sys2Proof.Proofs.Encoding

open Sys2Proof.Machine

/-! ### Words and slices as numbers -/

theorem slice_toNat {n : Nat} (v : BitVec n) (hi lo : Nat) :
    (slice v hi lo).toNat = v.toNat / 2 ^ lo % 2 ^ (hi - lo + 1) := by
  rw [slice, BitVec.extractLsb_toNat, Nat.shiftRight_eq_div_pow]

theorem slice_eq_iff {n : Nat} (v : BitVec n) (hi lo : Nat) (c : BitVec (hi - lo + 1)) :
    slice v hi lo = c ↔ v.toNat / 2 ^ lo % 2 ^ (hi - lo + 1) = c.toNat := by
  rw [← BitVec.toNat_inj, slice_toNat]

theorem toNat_append_eq_add {m n : Nat} (x : BitVec m) (y : BitVec n) :
    (x ++ y).toNat = x.toNat * 2 ^ n + y.toNat := by
  rw [BitVec.toNat_append, ← Nat.shiftLeft_add_eq_or_of_lt y.isLt, Nat.shiftLeft_eq]

theorem rtField_eq_mod (w : InstrWord) : rtField w = w.toNat % 32 := by
  simp [rtField, slice_toNat]

/-- R56's mask clears `Rt` and keeps the rest. -/
theorem toNat_and_opcodeMask (w : InstrWord) : (w &&& opcodeMask).toNat = w.toNat / 32 * 32 := by
  have hmask : opcodeMask = BitVec.allOnes 32 <<< 5 := by decide
  have hlt := w.isLt
  rw [hmask, ← BitVec.shiftLeft_ushiftRight, BitVec.toNat_shiftLeft, BitVec.toNat_ushiftRight,
    Nat.shiftLeft_eq, Nat.shiftRight_eq_div_pow]
  omega

/-- R57's test, for either of its two patterns. -/
theorem and_opcodeMask_eq_iff {m : InstrWord} (hm : m.toNat % 32 = 0) (w : InstrWord) :
    w &&& opcodeMask = m ↔ w.toNat = m.toNat + rtField w := by
  rw [← BitVec.toNat_inj, toNat_and_opcodeMask, rtField_eq_mod]
  omega

/-- R56's `|` puts `t` into the empty `Rt`, as a sum does. -/
theorem toNat_or_rt {m : InstrWord} (hm : m.toNat % 32 = 0) {t : Nat} (ht : t ≤ 31) :
    (m ||| BitVec.ofNat 32 t).toNat = m.toNat + t := by
  have hquot : m.toNat = 2 ^ 5 * (m.toNat / 32) := by omega
  have hlt : t < 2 ^ 5 := by omega
  rw [BitVec.toNat_or, BitVec.toNat_ofNat, Nat.mod_eq_of_lt (by omega : t < 2 ^ 32), hquot,
    Nat.two_pow_add_eq_or_of_lt hlt]

/-! ### The accessor -/

theorem accessorMatch_mod : accessorMatch.toNat % 32 = 0 := by decide

/-- The decoder in numbers: the accessor with `Rt = t` is the one word `0xD5380720 + t`. -/
theorem decodeWord_eq_mrs_iff (w : InstrWord) (t : Nat) :
    decodeWord w = .accessor (.mrs t) ↔ t ≤ 31 ∧ w.toNat = accessorMatch.toNat + t := by
  constructor
  · intro h
    obtain ⟨hmatch, hinstr⟩ := decodeWord_instr h
    obtain rfl : t = rtField w := Instr.mrs.inj hinstr
    exact ⟨rtField_le w, (and_opcodeMask_eq_iff accessorMatch_mod w).1 hmatch⟩
  · rintro ⟨ht, hw⟩
    have hrt : rtField w = t := by
      have hm := accessorMatch_mod
      rw [rtField_eq_mod]
      omega
    rw [← hrt] at hw ⊢
    exact decodeWord_accessor ((and_opcodeMask_eq_iff accessorMatch_mod w).2 hw)

/-- The format of R55 with the coordinates of R54 gives R56's numbers. -/
theorem toNat_encode_mrs {t : Nat} (ht : t ≤ 31) :
    (encode (.mrs t)).toNat = accessorMatch.toNat + t := by
  have hlt : t < 2 ^ 5 := by omega
  rw [encode, sysMoveWord, toNat_append_eq_add, BitVec.toNat_ofNat, Nat.mod_eq_of_lt hlt]
  rfl

theorem eq_accessorMatch_or_iff (w : InstrWord) {t : Nat} (ht : t ≤ 31) :
    w = accessorMatch ||| BitVec.ofNat 32 t ↔ w.toNat = accessorMatch.toNat + t := by
  rw [← BitVec.toNat_inj, toNat_or_rt accessorMatch_mod ht]

theorem decodeWord_accessor_iff (w : InstrWord) :
    (∃ i, decodeWord w = .accessor i) ↔ ∃ t, t ≤ 31 ∧ w = accessorMatch ||| BitVec.ofNat 32 t := by
  constructor
  · rintro ⟨⟨t⟩, h⟩
    obtain ⟨ht, hw⟩ := (decodeWord_eq_mrs_iff w t).1 h
    exact ⟨t, ht, (eq_accessorMatch_or_iff w ht).2 hw⟩
  · rintro ⟨t, ht, hw⟩
    exact ⟨.mrs t, (decodeWord_eq_mrs_iff w t).2 ⟨ht, (eq_accessorMatch_or_iff w ht).1 hw⟩⟩

/-- Settles O2: encoding, decoding and `|` all give the number `0xD5380720 + t`. -/
theorem accessorWordsAreMatchOrT : Obligations.AccessorWordsAreMatchOrT := by
  refine ⟨fun t ht => ?_, decodeWord_accessor_iff⟩
  have henc := toNat_encode_mrs ht
  exact ⟨(eq_accessorMatch_or_iff _ ht).2 henc, henc⟩

/-- Settles O3: the seven fixed fields are the quotient `0xD5380720 / 32` cut up, and `Rt` is the
remainder. -/
theorem accessorIffFormatFields : Obligations.AccessorIffFormatFields := by
  intro w t
  have hmatch : accessorMatch.toNat = 0xD5380720 := rfl
  have hlt := w.isLt
  rw [decodeWord_eq_mrs_iff, hmatch]
  simp only [slice_eq_iff, slice_toNat, BitVec.toNat_ofNat]
  omega

/-! ### The bytes of a word -/

theorem map_toNat_wordBytes (w : InstrWord) :
    (wordBytes w).map BitVec.toNat =
      [w.toNat % 256, w.toNat / 256 % 256, w.toNat / 65536 % 256, w.toNat / 16777216] := by
  have hlt := w.isLt
  have htop : w.toNat / 16777216 % 256 = w.toNat / 16777216 := by omega
  simp [wordBytes, slice_toNat, htop]

/-- R59's two directions undo each other: the four bytes put together are the word. -/
theorem wordOfBytes_slices (w : InstrWord) :
    wordOfBytes (slice w 7 0) (slice w 15 8) (slice w 23 16) (slice w 31 24) = w := by
  have hlt := w.isLt
  apply BitVec.eq_of_toNat_eq
  simp only [wordOfBytes, toNat_append_eq_add, slice_toNat]
  omega

theorem decodeBytes_wordBytes (w : InstrWord) (rest : List Byte) :
    decodeBytes (wordBytes w ++ rest) = decodeWord w :=
  congrArg decodeWord (wordOfBytes_slices w)

theorem decodeBytes_of_short {bs : List Byte} (h : bs.length < 4) : decodeBytes bs = .truncated := by
  match bs, h with
  | [], _ | [_], _ | [_, _], _ | [_, _, _], _ => rfl

/-- Settles O5: each byte's number, the four bytes put together again, and the lists of length 0 to 3. -/
theorem bytesAreLittleEndian : Obligations.BytesAreLittleEndian :=
  ⟨fun w rest => ⟨map_toNat_wordBytes w, decodeBytes_wordBytes w rest⟩,
    fun _ => decodeBytes_of_short⟩

/-! ### The step on a word -/

/-- Where a word's bytes stand at `pc`, the step does what the decode of the word says. -/
theorem step_of_fetchBytes {s : State} {w : InstrWord} (h : fetchBytes s = some (wordBytes w)) :
    step s = issue (decodeWord w) s := by
  have hdecode : decodeBytes (wordBytes w) = decodeWord w := decodeBytes_wordBytes w []
  rw [step, h, ← hdecode]

/-- Settles O7, by the three cases of R57. -/
theorem stepOnEveryWord : Obligations.StepOnEveryWord := by
  intro s w hfetch
  rw [step_of_fetchBytes hfetch]
  split
  next haccessor => rw [decodeWord_accessor haccessor, rtField_eq_mod, issue]
  next haccessor =>
    split
    next hwrite => rw [decodeWord_writeForm hwrite, issue, execWriteForm, raiseUndefined]
    next hwrite => rw [decodeWord_outside haccessor hwrite, issue]

end Sys2Proof.Proofs.Encoding

/-! Building the register from field values (R74). The sixteen fields are the digits of the value in base
16, the lowest field first, so the sum of the shifted values is the number with those digits, and a
field's extraction is one digit of it. -/

namespace Sys2Proof.Proofs.FieldInverse

open Sys2Proof.Machine
open Sys2Proof.Proofs.FieldLayout

theorem field_eq_div_mod (v : Word) {hi lo : Nat} (hlo : lo ≤ hi) (hhi : hi ≤ 63) :
    field v hi lo = v.toNat / 2 ^ lo % 2 ^ (hi - lo + 1) := by
  rw [field_eq_mod v hlo hhi, Nat.shiftRight_eq_div_pow]

/-- The digit of a list at place `i` is what division by `b ^ i` leaves modulo `b`. -/
theorem ofDigits_div_pow_mod {b : Nat} (hb : 0 < b) {ds : List Nat} (hds : ∀ d ∈ ds, d < b) {i d : Nat}
    (hd : ds[i]? = some d) : Nat.ofDigits b ds / b ^ i % b = d := by
  obtain ⟨hi, rfl⟩ := List.getElem?_eq_some_iff.1 hd
  rw [Nat.ofDigits_div_pow_eq_ofDigits_drop i hb ds hds, List.drop_eq_getElem_cons hi,
    Nat.ofDigits_cons, Nat.add_mul_mod_self_left, Nat.mod_eq_of_lt (hds _ (List.getElem_mem hi))]

/-- The field values as base-16 digits, the field at bit 0 first. -/
def fieldDigits (g : IdField → Nat) : List Nat := allFields.reverse.map g

theorem fieldDigits_getElem? (g : IdField → Nat) (f : IdField) :
    (fieldDigits g)[lsb f / 4]? = some (g f) := by
  cases f <;> rfl

theorem fieldDigits_length (g : IdField → Nat) : (fieldDigits g).length = 16 := rfl

theorem fieldDigits_lt {g : IdField → Nat} (hg : ∀ f, g f ≤ 15) : ∀ d ∈ fieldDigits g, d < 16 := by
  intro d hd
  obtain ⟨f, -, rfl⟩ := List.mem_map.1 hd
  exact Nat.lt_succ_of_le (hg f)

theorem ofNat_shiftLeft (n k : Nat) : BitVec.ofNat 64 n <<< k = BitVec.ofNat 64 (n * 2 ^ k) := by
  apply BitVec.eq_of_toNat_eq
  simp [Nat.shiftLeft_eq]

theorem sum_map_ofNat (fs : List IdField) (h : IdField → Nat) :
    (fs.map fun f => BitVec.ofNat 64 (h f)).sum = BitVec.ofNat 64 (fs.map h).sum := by
  induction fs with
  | nil => rfl
  | cons f fs ih => simp only [List.map_cons, List.sum_cons, ih, BitVec.ofNat_add]

theorem two_pow_lsb (f : IdField) : 2 ^ lsb f = 16 ^ (lsb f / 4) := by
  have hdvd : 4 ∣ lsb f := Nat.dvd_of_mod_eq_zero (lsb_mod_four f)
  have hpow : 2 ^ (4 * (lsb f / 4)) = (2 ^ 4) ^ (lsb f / 4) := Nat.pow_mul 2 4 (lsb f / 4)
  rwa [Nat.mul_div_cancel' hdvd] at hpow

/-- R14's layout has the fields in place: from the bottom, the field with lowest bit `4 * k` is at `k`. -/
theorem zipIdx_reverse_allFields :
    allFields.reverse.zipIdx = allFields.reverse.map fun f => (f, lsb f / 4) := by decide

/-- The sum of the field values by their weights is the number with these digits, in any base. -/
theorem sum_weights_eq_ofDigits (b : Nat) (g : IdField → Nat) :
    (allFields.map fun f => g f * b ^ (lsb f / 4)).sum = Nat.ofDigits b (fieldDigits g) := by
  rw [Nat.ofDigits_eq_sum_mapIdx, fieldDigits, List.mapIdx_eq_zipIdx_map, List.zipIdx_map,
    zipIdx_reverse_allFields, List.map_map, List.map_map, List.map_reverse, List.sum_reverse]
  rfl

/-- R74's sum of shifted field values is the number with the field values as its digits. -/
theorem assemble_eq_ofDigits (g : IdField → Nat) :
    assemble g = BitVec.ofNat 64 (Nat.ofDigits 16 (fieldDigits g)) := by
  simp only [assemble, ofNat_shiftLeft, two_pow_lsb, sum_map_ofNat, sum_weights_eq_ofDigits]

theorem toNat_assemble {g : IdField → Nat} (hg : ∀ f, g f ≤ 15) :
    (assemble g).toNat = Nat.ofDigits 16 (fieldDigits g) := by
  have hlt := Nat.ofDigits_lt_base_pow_length (by decide : 1 < 16) (fieldDigits_lt hg)
  have hpow : 16 ^ 16 = 2 ^ 64 := by decide
  rw [fieldDigits_length, hpow] at hlt
  rw [assemble_eq_ofDigits, BitVec.toNat_ofNat, Nat.mod_eq_of_lt hlt]

/-- A field is one base-16 digit of the value. -/
theorem fieldOf_eq_digit (f : IdField) (v : Word) : fieldOf f v = v.toNat / 16 ^ (lsb f / 4) % 16 := by
  have hwidth : 2 ^ (msb f - lsb f + 1) = 16 := by simp [msb]
  have hle : lsb f ≤ msb f := Nat.le_add_right _ 3
  rw [fieldOf, field_eq_div_mod v hle (Nat.le_of_lt_succ (msb_lt f)), hwidth,
    two_pow_lsb]

theorem fieldOf_le (f : IdField) (v : Word) : fieldOf f v ≤ 15 := by
  rw [fieldOf_eq_digit]
  omega

theorem fieldOf_assemble {g : IdField → Nat} (hg : ∀ f, g f ≤ 15) (f : IdField) :
    fieldOf f (assemble g) = g f := by
  rw [fieldOf_eq_digit, toNat_assemble hg]
  exact ofDigits_div_pow_mod (by decide) (fieldDigits_lt hg) (fieldDigits_getElem? g f)

/-- The fields determine the value, since every bit lies in a field. -/
theorem eq_of_fieldOf_eq {v w : Word} (h : ∀ f, fieldOf f v = fieldOf f w) : v = w := by
  apply BitVec.eq_of_getLsbD_eq
  intro b hb
  obtain ⟨f, ⟨hlo, hhi⟩, -⟩ := bit_in_exactly_one_field hb
  have hslice : slice v (msb f) (lsb f) = slice w (msb f) (lsb f) := by
    apply BitVec.eq_of_toNat_eq
    rw [← fieldOf_eq_slice, ← fieldOf_eq_slice, h f]
  have hbit := congrArg (BitVec.getLsbD · (b - lsb f)) hslice
  simpa [slice, BitVec.getLsbD_extractLsb, Nat.add_sub_cancel' hlo, Nat.sub_le_sub_right hhi] using hbit

/-- The value built from a value's own fields has the same fields, so it is the value. -/
theorem assemble_fieldOf (v : Word) : assemble (fun f => fieldOf f v) = v :=
  eq_of_fieldOf_eq fun f => fieldOf_assemble (fun f => fieldOf_le f v) f

/-- Settles O37: the mask of R74 as a remainder, and the two directions of the inverse. -/
theorem extractionAndItsInverse : Obligations.ExtractionAndItsInverse :=
  ⟨fun v _ _ hlo hhi => field_eq_div_mod v hlo hhi, assemble_fieldOf, fun _ => fieldOf_assemble⟩

end Sys2Proof.Proofs.FieldInverse

/-! The accessor, arm by arm (R63 to R72): what each outcome of the access checks makes of the state, and
which outcome the checks have under each arm's conditions. -/

namespace Sys2Proof.Proofs.AccessorArms

open Sys2Proof.Machine

theorem exec_mrs (t : Nat) (s : State) : exec (.mrs t) s = mrsOn Config.params t s := rfl

/-! ### From the access checks to the outcome -/

section Outcome

variable {p : Config.Params} {t : Nat} {s : State}

theorem mrsOn_of_readEnabled (ht : t ≤ 31) (h : readEnabled s = true) :
    mrsOn p t s = .next (s.writeX t p.idval).advancePc := by
  rw [mrsOn, if_pos ht, (accessOutcome_read_iff p s).2 h]

theorem mrsOn_of_trap {target : EL} {code : BitVec 6} (ht : t ≤ 31)
    (h : accessOutcome s.el p.haveIDST s.el2En s.hcrTge s.hcrTid3 = .trap target code) :
    mrsOn p t s = .fault (.systemAccessTrap target code s) := by
  simp only [mrsOn, if_pos ht, h, raiseSystemAccessTrap]

theorem mrsOn_of_undefined (ht : t ≤ 31)
    (h : accessOutcome s.el p.haveIDST s.el2En s.hcrTge s.hcrTid3 = .undefined) :
    mrsOn p t s = .fault (.undefined s) := by
  simp only [mrsOn, if_pos ht, h, raiseUndefined]

/-- The access checks come before `t` is used (R72). -/
theorem mrsOn_fault_of_other_dest {u : Nat} {f : Fault} (hu : u ≤ 31) (h : mrsOn p t s = .fault f) :
    mrsOn p u s = .fault f := by
  obtain ⟨-, ⟨target, code, ho, rfl⟩ | ⟨ho, rfl⟩⟩ := mrsOn_fault h
  · exact mrsOn_of_trap hu ho
  · exact mrsOn_of_undefined hu ho

end Outcome

/-! ### The arms that end abnormally -/

section Arms

variable {p : Config.Params} {t : Nat} {s : State}

theorem mrsOn_el0_without_idst (ht : t ≤ 31) (hel : s.el = .el0) (hidst : p.haveIDST = false) :
    mrsOn p t s = .fault (.undefined s) :=
  mrsOn_of_undefined ht (by simp [accessOutcome, hel, hidst])

theorem mrsOn_el0_with_idst (ht : t ≤ 31) (hel : s.el = .el0) (hidst : p.haveIDST = true) :
    mrsOn p t s =
      if s.el2En = true ∧ s.hcrTge = 1#1 then .fault (.systemAccessTrap .el2 0x18#6 s)
      else .fault (.systemAccessTrap .el1 0x18#6 s) := by
  split
  next hroute => exact mrsOn_of_trap ht (by simp [accessOutcome, hel, hidst, hroute, trapCode])
  next hroute => exact mrsOn_of_trap ht (by simp [accessOutcome, hel, hidst, hroute, trapCode])

theorem readEnabled_el0 (hel : s.el = .el0) : readEnabled s = false := by
  simp [readEnabled, hel]

theorem mrsOn_el0_ne_next (hel : s.el = .el0) (s' : State) : mrsOn p t s ≠ .next s' := by
  intro h
  obtain ⟨-, henabled, -⟩ := mrsOn_next h
  exact absurd henabled (by simp [readEnabled_el0 hel])

theorem mrsOn_el1_intercepted (ht : t ≤ 31) (hel : s.el = .el1) (hen : s.el2En = true)
    (htid3 : s.hcrTid3 = 1#1) : mrsOn p t s = .fault (.systemAccessTrap .el2 0x18#6 s) :=
  mrsOn_of_trap ht (by simp [accessOutcome, hel, hen, htid3, trapCode])

end Arms

/-! ### The destination register of a read -/

section Destination

variable (s : State) (t : Nat) (v w : Word)

/-- The later of two writes to one register stands. -/
@[simp] theorem writeX_writeX : (s.writeX t v).writeX t w = s.writeX t w := by
  unfold State.writeX
  split
  next => simp
  next => rfl

@[simp] theorem readEnabled_writeX : readEnabled (s.writeX t v) = readEnabled s := by
  simp [readEnabled]

theorem advancePc_eq_of_fits (h : s.pc.toNat + 4 < addressCount) :
    s.advancePc = { s with pc := s.pc + 4#64 } := by
  rw [State.advancePc, if_pos h]

end Destination

/-- Settles O14, by the first test of R64 at EL0. -/
theorem undefinedAtEl0WithoutIdst : Obligations.UndefinedAtEl0WithoutIdst :=
  fun _ _ _ => mrsOn_el0_without_idst

/-- Settles O15: the routing by TGE, and that a read would need `readEnabled`, which is false at EL0. -/
theorem trapsAtEl0WithIdst : Obligations.TrapsAtEl0WithIdst :=
  ⟨fun _ _ _ => mrsOn_el0_with_idst, fun _ _ _ s' hel => mrsOn_el0_ne_next hel s'⟩

/-- Settles O16, by the intercepted arm on this machine's parameters. -/
theorem trapAtEl1ToEl2 : Obligations.TrapAtEl1ToEl2 :=
  fun _ _ => mrsOn_el1_intercepted

/-- Settles O17, by whether this machine has FEAT_IDST. -/
theorem execAtEl0 : Obligations.ExecAtEl0 := by
  intro t s ht hel
  rw [exec_mrs]
  split
  next hidst => exact mrsOn_el0_with_idst ht hel hidst
  next hidst => exact mrsOn_el0_without_idst ht hel (Bool.eq_false_of_not_eq_true hidst)

/-- Settles O13: the write to register 31 is discarded, the access checks do not see `t`, and the read
overwrites what its destination held. -/
theorem destinationNumberCornerCases : Obligations.DestinationNumberCornerCases := by
  refine ⟨fun s henabled => ⟨s.advancePc, ?_, advancePc_readX s, advancePc_eq_of_fits s⟩,
    fun t u s f _ hu hfault => mrsOn_fault_of_other_dest hu hfault, fun t s old ht henabled => ?_⟩
  · rw [exec_mrs, mrsOn_of_readEnabled (Nat.le_refl 31) henabled, writeX_zeroRegister]
  · have ht' : t ≤ 31 := Nat.le_succ_of_le ht
    have henabled' : readEnabled (s.writeX t old) = true := (readEnabled_writeX s t old).trans henabled
    rw [exec_mrs, exec_mrs, mrsOn_of_readEnabled ht' henabled', mrsOn_of_readEnabled ht' henabled,
      writeX_writeX]

end Sys2Proof.Proofs.AccessorArms

/-! The causes of each outcome and the routing of the traps (R75, R79, R84). At each Exception level the
access checks are one equation; the ending of an execution is their outcome, so the obligations below
are read off these equations. -/

namespace Sys2Proof.Proofs.Routing

open Sys2Proof.Machine
open Sys2Proof.Proofs.AccessorArms

/-! ### The access checks, one Exception level at a time -/

section Checks

variable (haveIDST el2En : Bool) (tge tid3 : BitVec 1)

@[simp] theorem accessOutcome_el0_without_idst :
    accessOutcome .el0 false el2En tge tid3 = .undefined := rfl

@[simp] theorem accessOutcome_el0_with_idst :
    accessOutcome .el0 true el2En tge tid3 =
      if el2En = true ∧ tge = 1#1 then .trap .el2 0x18#6 else .trap .el1 0x18#6 := by
  simp [accessOutcome, trapCode]

@[simp] theorem accessOutcome_el1 :
    accessOutcome .el1 haveIDST el2En tge tid3 =
      if el2En = true ∧ tid3 = 1#1 then .trap .el2 0x18#6 else .read := by
  simp [accessOutcome, trapCode]

@[simp] theorem accessOutcome_el2 : accessOutcome .el2 haveIDST el2En tge tid3 = .read := rfl

@[simp] theorem accessOutcome_el3 : accessOutcome .el3 haveIDST el2En tge tid3 = .read := rfl

end Checks

/-! ### The conditions of each row of R79 -/

section Rows

variable {el : EL} {haveIDST el2En : Bool} {tge tid3 : BitVec 1}

theorem accessOutcome_undefined_iff :
    accessOutcome el haveIDST el2En tge tid3 = .undefined ↔ el = .el0 ∧ haveIDST = false := by
  cases el with
  | el0 => cases haveIDST <;> simp [ite_eq_iff]
  | el1 => simp [ite_eq_iff]
  | el2 | el3 => simp

theorem accessOutcome_trap_el1_iff :
    accessOutcome el haveIDST el2En tge tid3 = .trap .el1 0x18#6 ↔
      el = .el0 ∧ haveIDST = true ∧ ¬(el2En = true ∧ tge = 1#1) := by
  cases el with
  | el0 => cases haveIDST <;> simp
  | el1 => simp [ite_eq_iff]
  | el2 | el3 => simp

theorem accessOutcome_trap_el2_iff :
    accessOutcome el haveIDST el2En tge tid3 = .trap .el2 0x18#6 ↔
      (el = .el0 ∧ haveIDST = true ∧ el2En = true ∧ tge = 1#1) ∨
      (el = .el1 ∧ el2En = true ∧ tid3 = 1#1) := by
  cases el with
  | el0 => cases haveIDST <;> simp
  | el1 => simp
  | el2 | el3 => simp

end Rows

/-! ### From the access checks to the ending of an execution -/

section Ending

variable {p : Config.Params} {t : Nat} {s : State}

/-- An execution ends as the access checks say. -/
theorem endKind_mrsOn (ht : t ≤ 31) :
    endKind (mrsOn p t s) = some (accessOutcome s.el p.haveIDST s.el2En s.hcrTge s.hcrTid3) := by
  cases ho : accessOutcome s.el p.haveIDST s.el2En s.hcrTge s.hcrTid3 with
  | read => rw [mrsOn_of_readEnabled ht ((accessOutcome_read_iff p s).1 ho), endKind]
  | trap target code => rw [mrsOn_of_trap ht ho, endKind]
  | undefined => rw [mrsOn_of_undefined ht ho, endKind]

theorem accessOutcome_of_endKind {o : AccessOutcome} (ht : t ≤ 31)
    (h : endKind (mrsOn p t s) = some o) :
    accessOutcome s.el p.haveIDST s.el2En s.hcrTge s.hcrTid3 = o :=
  Option.some.inj ((endKind_mrsOn ht).symm.trans h)

theorem mrsOn_eq_trap_iff {target : EL} {code : BitVec 6} (ht : t ≤ 31) :
    mrsOn p t s = .fault (.systemAccessTrap target code s) ↔
      accessOutcome s.el p.haveIDST s.el2En s.hcrTge s.hcrTid3 = .trap target code :=
  ⟨fun h => accessOutcome_of_endKind ht (congrArg endKind h), mrsOn_of_trap ht⟩

theorem mrsOn_eq_undefined_iff (ht : t ≤ 31) :
    mrsOn p t s = .fault (.undefined s) ↔
      accessOutcome s.el p.haveIDST s.el2En s.hcrTge s.hcrTid3 = .undefined :=
  ⟨fun h => accessOutcome_of_endKind ht (congrArg endKind h), mrsOn_of_undefined ht⟩

theorem mrsOn_reads_iff (ht : t ≤ 31) : (∃ s', mrsOn p t s = .next s') ↔ readEnabled s = true := by
  constructor
  · rintro ⟨s', h⟩
    obtain ⟨-, henabled, -⟩ := mrsOn_next h
    exact henabled
  · exact fun henabled => ⟨_, mrsOn_of_readEnabled ht henabled⟩

/-- The abnormal endings of the accessor (R75, R77): the three routes of a trap, and `Undefined`. -/
theorem mrsOn_fault_cases {f : Fault} (h : mrsOn p t s = .fault f) :
    (∃ target, f = .systemAccessTrap target 0x18#6 s ∧
      ((s.el = .el0 ∧ target = .el1) ∨ (s.el = .el0 ∧ target = .el2) ∨
        (s.el = .el1 ∧ target = .el2))) ∨
    f = .undefined s := by
  obtain ⟨-, ⟨target, code, ho, rfl⟩ | ⟨-, rfl⟩⟩ := mrsOn_fault h
  · obtain ⟨rfl, hroute⟩ := accessOutcome_trap ho
    exact .inl ⟨target, rfl, hroute⟩
  · exact .inr rfl

end Ending

/-- Settles O18: each row of R79 is the access checks' own condition for its outcome, and the inversions
of an abnormal ending and of a refusal leave no other. -/
theorem completeListOfCauses : Obligations.CompleteListOfCauses := by
  refine ⟨fun p t s ht => ⟨(mrsOn_eq_trap_iff ht).trans accessOutcome_trap_el1_iff,
    (mrsOn_eq_trap_iff ht).trans accessOutcome_trap_el2_iff,
    (mrsOn_eq_undefined_iff ht).trans accessOutcome_undefined_iff,
    mrsOn_reads_iff ht, fun f hfault => ?_, fun r hrefused => ?_⟩, fun _ _ => rfl⟩
  · obtain ⟨target, rfl, ⟨-, rfl⟩ | ⟨-, rfl⟩ | ⟨-, rfl⟩⟩ | rfl := mrsOn_fault_cases hfault
    · exact .inl rfl
    · exact .inr (.inl rfl)
    · exact .inr (.inl rfl)
    · exact .inr (.inr rfl)
  · exact absurd (mrsOn_refused hrefused).1 (Nat.not_lt.2 ht)

/-- Settles O20: each clause is the access checks' equation at the clause's Exception level; that no
trap goes to EL3 is the inversion of a trap. -/
theorem routingByHcrEl2 : Obligations.RoutingByHcrEl2 := by
  intro p t s ht
  simp only [endKind_mrsOn ht, ne_eq, Option.some.injEq]
  refine ⟨?tge, ?tid3, ?disabled, ?higher, ?withoutIdst, ?notToEl3, ?el0NeverReads⟩
  case tge =>
    intro hel hidst
    simp [hel, hidst]
  case tid3 =>
    intro hel
    simp [hel]
  case disabled =>
    intro hen tge tid3
    refine ⟨?_, fun hel hidst => by simp [hel, hidst, hen], fun hel => by simp [hel, hen]⟩
    cases s.el with
    | el0 => cases p.haveIDST <;> simp [hen]
    | el1 => simp [hen]
    | el2 | el3 => simp
  case higher =>
    rintro (hel | hel) tge tid3
    · simp [hel]
    · simp [hel]
  case withoutIdst => exact fun hel hidst => accessOutcome_undefined_iff.2 ⟨hel, hidst⟩
  case notToEl3 =>
    intro code htrap
    obtain ⟨-, ⟨-, htarget⟩ | ⟨-, htarget⟩ | ⟨-, htarget⟩⟩ := accessOutcome_trap htrap <;>
      cases htarget
  case el0NeverReads =>
    intro hel hread
    have henabled := (accessOutcome_read_iff p s).1 hread
    exact absurd henabled (by simp [readEnabled_el0 hel])

/-- Settles O25: a trap of a step is a trap of the accessor, and each of its three routes goes up. -/
theorem trapsGoStrictlyHigher : Obligations.TrapsGoStrictlyHigher := by
  intro s left target code hstep
  obtain ⟨t, -, hfault⟩ | hwrite := step_fault hstep
  · obtain ⟨target', heq, hroute⟩ | hundefined := mrsOn_fault_cases hfault
    · cases heq
      refine ⟨rfl, rfl, ?_⟩
      obtain ⟨hel, rfl⟩ | ⟨hel, rfl⟩ | ⟨hel, rfl⟩ := hroute <;> simp [hel, EL.level]
    · cases hundefined
  · cases hwrite

end Sys2Proof.Proofs.Routing

/-! Decode and encode agree (R54 to R62): both directions of the 32-bit decode, for the accessor and for
its write form, and the instruction read back from its bytes, from the opcode table's number and from
its assembler line. -/

namespace Sys2Proof.Proofs.RoundTrip

open Sys2Proof.Machine
open Sys2Proof.Proofs.Encoding

@[simp] theorem wellFormed_mrs (t : Nat) : (Instr.mrs t).wellFormed = true ↔ t ≤ 31 :=
  decide_eq_true_iff

theorem eq_encode_mrs_iff (w : InstrWord) {t : Nat} (ht : t ≤ 31) :
    w = encode (.mrs t) ↔ w.toNat = accessorMatch.toNat + t := by
  rw [← BitVec.toNat_inj, toNat_encode_mrs ht]

theorem decodeWord_eq_accessor_iff (w : InstrWord) (i : Instr) :
    decodeWord w = .accessor i ↔ i.wellFormed = true ∧ w = encode i := by
  cases i with
  | mrs t =>
    rw [decodeWord_eq_mrs_iff, wellFormed_mrs]
    exact and_congr_right fun ht => (eq_encode_mrs_iff w ht).symm

theorem decodeWord_encode {i : Instr} (hi : i.wellFormed = true) :
    decodeWord (encode i) = .accessor i :=
  (decodeWord_eq_accessor_iff _ i).2 ⟨hi, rfl⟩

/-! ### The write form -/

theorem writeFormMatch_mod : writeFormMatch.toNat % 32 = 0 := by decide

theorem decodeWord_eq_writeForm {w : InstrWord} {t : Nat} (h : decodeWord w = .writeForm t) :
    w &&& opcodeMask = writeFormMatch ∧ t = rtField w := by
  by_cases ha : w &&& opcodeMask = accessorMatch
  · rw [decodeWord_accessor ha] at h
    cases h
  · by_cases hw : w &&& opcodeMask = writeFormMatch
    · rw [decodeWord_writeForm hw] at h
      cases h
      exact ⟨hw, rfl⟩
    · rw [decodeWord_outside ha hw] at h
      cases h

/-- R60's format with direction 0 gives the numbers from `0xD5180720` up. -/
theorem toNat_writeFormWord {t : Nat} (ht : t ≤ 31) :
    (writeFormWord t).toNat = writeFormMatch.toNat + t := by
  have hlt : t < 2 ^ 5 := by omega
  rw [writeFormWord, sysMoveWord, toNat_append_eq_add, BitVec.toNat_ofNat, Nat.mod_eq_of_lt hlt]
  rfl

theorem rtField_writeFormWord {t : Nat} (ht : t ≤ 31) : rtField (writeFormWord t) = t := by
  have hmod := writeFormMatch_mod
  rw [rtField_eq_mod, toNat_writeFormWord ht]
  omega

theorem decodeWord_eq_writeForm_iff (w : InstrWord) (t : Nat) :
    decodeWord w = .writeForm t ↔ t ≤ 31 ∧ w = writeFormWord t := by
  constructor
  · intro h
    obtain ⟨hmatch, rfl⟩ := decodeWord_eq_writeForm h
    have hnum := (and_opcodeMask_eq_iff writeFormMatch_mod w).1 hmatch
    exact ⟨rtField_le w, BitVec.eq_of_toNat_eq (hnum.trans (toNat_writeFormWord (rtField_le w)).symm)⟩
  · rintro ⟨ht, rfl⟩
    have hrt := rtField_writeFormWord ht
    have hnum : (writeFormWord t).toNat = writeFormMatch.toNat + rtField (writeFormWord t) := by
      rw [hrt, toNat_writeFormWord ht]
    rw [decodeWord_writeForm ((and_opcodeMask_eq_iff writeFormMatch_mod _).2 hnum), hrt]

/-! ### Bytes and table numbers -/

theorem decodeBytes_encodeBytes {i : Instr} (hi : i.wellFormed = true) :
    decodeBytes (encodeBytes i) = .accessor i :=
  (decodeBytes_wordBytes (encode i) []).trans (decodeWord_encode hi)

theorem decodeTableWord_toNat (w : InstrWord) :
    decodeTableWord 32 w.toNat = (decodeWord w).instr? := by
  have hbytes : decodeBytes (wordBytes w) = decodeWord w := decodeBytes_wordBytes w []
  rw [decodeTableWord, Nat.mod_eq_of_lt w.isLt, BitVec.ofNat_toNat, BitVec.setWidth_eq, hbytes]

theorem decodeTableWord_encode {i : Instr} (hi : i.wellFormed = true) :
    decodeTableWord 32 (encode i).toNat = some i := by
  rw [decodeTableWord_toNat, decodeWord_encode hi, Decoded.instr?]

/-- Settles O4: each form's words are the numbers its match and `Rt` add up to, and the bytes and the
table's number hold the word. -/
theorem decodeAndEncodeAgree : Obligations.DecodeAndEncodeAgree :=
  ⟨decodeWord_eq_accessor_iff, decodeWord_eq_writeForm_iff,
    fun _ hi => ⟨decodeBytes_encodeBytes hi, decodeTableWord_encode hi⟩⟩

/-- Settles O1, by evaluation of the decoder on the six words. -/
theorem specWordsDecode : Obligations.SpecWordsDecode := by
  unfold Obligations.SpecWordsDecode
  decide

/-! ### Assembler lines -/

/-- R62 names register 31 `XZR` and every other one by its number. -/
theorem xNumber_dest_disassemble {t : Nat} (ht : t ≤ 31) :
    xNumber (disassemble (.mrs t)).dest = some t := by
  obtain rfl | hlt := ht.eq_or_lt
  · rfl
  · simp [disassemble, xNumber, hlt.ne, Nat.le_of_lt_succ hlt]

/-- The spelling of the identification register does not enter the word. -/
theorem assembleLine_of_dest {l : AsmLine} {t : Nat} (h : xNumber l.dest = some t) :
    assembleLine l = some (encode (.mrs t)) := by
  simp [assembleLine, asmInstr, h]

theorem asmInstr_some {l : AsmLine} {i : Instr} (h : asmInstr l = some i) :
    i.wellFormed = true ∧ (disassemble i).dest = l.dest := by
  obtain ⟨dest, reg⟩ := l
  cases dest with
  | x n =>
    obtain ⟨t, ⟨hn, rfl⟩, rfl⟩ : ∃ t, (n ≤ 30 ∧ n = t) ∧ Instr.mrs t = i := by
      simpa [asmInstr, xNumber] using h
    have hne : n ≠ 31 := by omega
    exact ⟨(wellFormed_mrs n).2 (by omega), by simp [disassemble, hne]⟩
  | xzr =>
    obtain rfl : Instr.mrs 31 = i := Option.some.inj h
    exact ⟨rfl, rfl⟩

/-- Settles O47: a line's word depends on the destination's name only, and that name is read back. -/
theorem assemblerLinesRoundTrip : Obligations.AssemblerLinesRoundTrip := by
  refine ⟨fun i hi => ?_, fun l i => asmInstr_some⟩
  cases i with
  | mrs t =>
    have hdest := xNumber_dest_disassemble ((wellFormed_mrs t).1 hi)
    exact ⟨assembleLine_of_dest hdest, assembleLine_of_dest hdest⟩

/-! ### The syndrome -/

/-- Settles O48, by evaluation at the 32 register numbers. -/
theorem syndromeValues : Obligations.SyndromeValues := by
  unfold Obligations.SyndromeValues
  decide

end Sys2Proof.Proofs.RoundTrip

/-! The read (R63, R69 to R73): its effect and frame wherever it is enabled, that reads agree and commute,
and what an execution's ending depends on. -/

namespace Sys2Proof.Proofs.Reads

open Sys2Proof.Machine
open Sys2Proof.Proofs.AccessorArms
open Sys2Proof.Proofs.Routing

/-! ### The effect of a read -/

/-- Writing `IDVAL` and moving on is the read's whole effect. -/
theorem readEffect_of_update (p : Config.Params) (t : Nat) (s : State) :
    ReadEffect p t s (s.writeX t p.idval).advancePc where
  dest ht := by simp [readX_writeX, Nat.lt_succ_of_le ht]
  others i hi := by simp [readX_writeX, hi]
  pcNext hfits := by simpa using advancePc_of_fits (s.writeX t p.idval) (by simpa using hfits)
  pcFree htop := by simpa using advancePc_of_pastTop (s.writeX t p.idval) (by simpa using htop)
  context := by simp
  bytes a := by simp

theorem readEffect_of_next {p : Config.Params} {t : Nat} {s s' : State}
    (h : mrsOn p t s = .next s') : ReadEffect p t s s' := by
  obtain ⟨-, -, rfl⟩ := mrsOn_next h
  exact readEffect_of_update p t s

/-- A read completes, with its effect, wherever it is enabled. -/
theorem exec_mrs_completes {t : Nat} {s : State} (ht : t ≤ 31) (h : readEnabled s = true) :
    ∃ s', exec (.mrs t) s = .next s' ∧ ReadEffect Config.params t s s' :=
  ⟨_, mrsOn_of_readEnabled ht h, readEffect_of_update _ t s⟩

theorem readEnabled_el1 {s : State} (hel : s.el = .el1) (h : s.el2En = false ∨ s.hcrTid3 = 0#1) :
    readEnabled s = true := by
  obtain hen | htid3 := h
  · simp [readEnabled, hel, hen]
  · simp [readEnabled, hel, htid3]

theorem readEnabled_el2_el3 {s : State} (hel : s.el = .el2 ∨ s.el = .el3) : readEnabled s = true := by
  obtain hel | hel := hel
  · simp [readEnabled, hel]
  · simp [readEnabled, hel]

/-- Settles O11: a read is enabled at EL1 where EL2 does not intercept it. -/
theorem readCompletesAtEl1 : Obligations.ReadCompletesAtEl1 :=
  fun _ _ ht hel h => exec_mrs_completes ht (readEnabled_el1 hel h)

/-- Settles O12: a read is enabled at EL2 and at EL3. -/
theorem readCompletesAtEl2AndEl3 : Obligations.ReadCompletesAtEl2AndEl3 :=
  fun _ _ ht hel => exec_mrs_completes ht (readEnabled_el2_el3 hel)

/-- Settles O35: the read's effect at its destination. -/
theorem resetLeavesIdval : Obligations.ResetLeavesIdval := by
  intro c t ht henabled
  obtain ⟨s', hexec, heffect⟩ := exec_mrs_completes (Nat.le_succ_of_le ht) henabled
  exact ⟨s', hexec, heffect.dest ht⟩

/-- Settles O22: each of the two destinations holds `IDVAL`. -/
theorem anyTwoReadsAgree : Obligations.AnyTwoReadsAgree := by
  intro t u s₁ s₂ s₁' s₂' ht hu h₁ h₂
  have hdest₁ : s₁'.readX t = some Config.idval := (readEffect_of_next h₁).dest ht
  have hdest₂ : s₂'.readX u = some Config.idval := (readEffect_of_next h₂).dest hu
  exact ⟨hdest₁.trans hdest₂.symm, hdest₁⟩

/-! ### Two reads -/

section TwoReads

variable (s : State) (t u : Nat) (v : Word)

@[simp] theorem readEnabled_advancePc : readEnabled s.advancePc = readEnabled s := by
  simp [readEnabled]

/-- The program counter moves on in the same way whatever the registers hold. -/
theorem advancePc_writeX : (s.writeX t v).advancePc = s.advancePc.writeX t v := by
  by_cases ht : t < 31
  · simp only [State.writeX, ht, dite_true, State.advancePc]
    split <;> rfl
  · simp only [State.writeX, ht, dite_false]

/-- Two writes of one value may be swapped, into one register or two. -/
theorem writeX_comm : (s.writeX t v).writeX u v = (s.writeX u v).writeX t v := by
  by_cases htu : t = u
  · rw [htu]
  · unfold State.writeX
    split <;> split <;> simp [Vector.set_comm _ _ htu]

end TwoReads

/-- Settles O23: a read enables and disables nothing, and the two register writes and the two moves of
the program counter commute. -/
theorem readsCommute : Obligations.ReadsCommute := by
  intro t u s s₁ s₂ h₁ h₂
  obtain ⟨ht, henabled, rfl⟩ := mrsOn_next h₁
  obtain ⟨hu, -, rfl⟩ := mrsOn_next h₂
  refine ⟨_, mrsOn_of_readEnabled hu henabled, ?_⟩
  rw [exec_mrs, mrsOn_of_readEnabled ht (by simpa using henabled)]
  simp only [advancePc_writeX, writeX_comm]

/-! ### Abnormal endings -/

theorem mrsOn_fault_left {p : Config.Params} {t : Nat} {s : State} {f : Fault}
    (h : mrsOn p t s = .fault f) : f.left = s := by
  obtain ⟨-, ⟨_, _, -, rfl⟩ | ⟨-, rfl⟩⟩ := mrsOn_fault h
  · rfl
  · rfl

/-- Settles O24: the state an abnormal ending leaves is the one it began in. -/
theorem abnormalEndingRepeats : Obligations.AbnormalEndingRepeats := by
  intro i s f h
  cases i with
  | mrs t => rwa [mrsOn_fault_left h]

theorem mrsOn_illFormed {p : Config.Params} {t : Nat} {s : State} (ht : 31 < t) :
    mrsOn p t s = .refused .illFormed :=
  if_neg (Nat.not_le.2 ht)

/-- Settles O10, by the operand check that comes before the access checks. -/
theorem illFormedTermIsRefused : Obligations.IllFormedTermIsRefused :=
  fun _ _ => mrsOn_illFormed

/-! ### What the ending depends on -/

/-- An execution that does not read answers without `IDVAL`. -/
theorem mrsOn_idval_of_not_readEnabled (p : Config.Params) (v : Word) (t : Nat) {s : State}
    (h : readEnabled s = false) : mrsOn { p with idval := v } t s = mrsOn p t s := by
  have hne : accessOutcome s.el p.haveIDST s.el2En s.hcrTge s.hcrTid3 ≠ .read := by
    rw [ne_eq, accessOutcome_read_iff, h]
    decide
  cases ho : accessOutcome s.el p.haveIDST s.el2En s.hcrTge s.hcrTid3 with
  | read => exact absurd ho hne
  | trap target code => simp only [mrsOn, ho]
  | undefined => simp only [mrsOn, ho]

/-- Settles O21: at EL0 no read is enabled. -/
theorem el0LearnsNothingOfIdval : Obligations.El0LearnsNothingOfIdval :=
  fun p v t _ hel => mrsOn_idval_of_not_readEnabled p v t (readEnabled_el0 hel)

/-- R64's order of tests: each input is compared only on the path on which it is consulted. -/
theorem accessOutcome_congr {el : EL} {idst idst' en en' : Bool} {tge tge' tid3 tid3' : BitVec 1}
    (hidst : el = .el0 → idst = idst')
    (hen0 : el = .el0 → idst = true → en = en')
    (htge : el = .el0 → idst = true → en = true → tge = tge')
    (hen1 : el = .el1 → en = en')
    (htid3 : el = .el1 → en = true → tid3 = tid3') :
    accessOutcome el idst en tge tid3 = accessOutcome el idst' en' tge' tid3' := by
  cases el with
  | el0 =>
    obtain rfl := hidst rfl
    cases idst with
    | false => simp
    | true =>
      obtain rfl := hen0 rfl rfl
      cases en with
      | false => simp
      | true => rw [htge rfl rfl rfl]; simp
  | el1 =>
    obtain rfl := hen1 rfl
    cases en with
    | false => simp
    | true => rw [htid3 rfl rfl]; simp
  | el2 | el3 => simp

/-- Settles O19: an execution ends as the access checks say, whatever the destination and the rest. -/
theorem onlyConsultedInputsMatter : Obligations.OnlyConsultedInputsMatter := by
  intro p q t u s s' ht hu hel hidst hen0 htge hen1 htid3
  rw [endKind_mrsOn ht, endKind_mrsOn hu, ← hel, accessOutcome_congr hidst hen0 htge hen1 htid3]

end Sys2Proof.Proofs.Reads

/-! Memory's bytes read together (R11, R59): a range that reads is one in which each byte reads, so a
word stands where its bytes were written, and a range splits into two. -/

namespace Sys2Proof.Proofs.ByteRanges

open Sys2Proof.Machine

theorem readBytes_succ_eq_some_iff {m : Memory} {a n : Nat} {bs : List Byte} :
    Memory.readBytes m a (n + 1) = some bs ↔
      ∃ b cs, Memory.readByte m a = some b ∧ Memory.readBytes m (a + 1) n = some cs ∧
        bs = b :: cs := by
  rw [Memory.readBytes]
  cases Memory.readByte m a with
  | none => simp
  | some b =>
    cases Memory.readBytes m (a + 1) n with
    | none => simp
    | some cs => simp [eq_comm]

theorem readBytes_eq_some_iff {m : Memory} {n : Nat} :
    ∀ {a : Nat} {bs : List Byte}, Memory.readBytes m a n = some bs ↔
      bs.length = n ∧ ∀ k < n, Memory.readByte m (a + k) = bs[k]? := by
  induction n with
  | zero =>
    intro a bs
    simp [Memory.readBytes, eq_comm (a := [])]
  | succ n ih =>
    intro a bs
    rw [readBytes_succ_eq_some_iff]
    cases bs with
    | nil => simp
    | cons b bs =>
      rw [Nat.forall_lt_succ_left]
      simp [ih, Nat.add_assoc, Nat.add_comm 1, and_left_comm]

/-- One missing byte makes the whole range missing. -/
theorem readBytes_eq_none {m : Memory} {a n k : Nat} (hk : k < n)
    (hmissing : Memory.readByte m (a + k) = none) : Memory.readBytes m a n = none := by
  rw [Option.eq_none_iff_forall_ne_some]
  intro bs hread
  obtain ⟨hlen, hbytes⟩ := readBytes_eq_some_iff.1 hread
  have hout := List.getElem?_eq_none_iff.1 ((hbytes k hk).symm.trans hmissing)
  omega

/-- Each byte written reads back. -/
theorem readByte_writeBytes_inside (bs : List Byte) :
    ∀ (m : Memory) (a k : Nat), k < bs.length → a + bs.length ≤ addressCount →
      Memory.readByte (Memory.writeBytes m a bs) (a + k) = bs[k]? := by
  induction bs with
  | nil => intro m a k hk; simp at hk
  | cons b bs ih =>
    intro m a k hk hfit
    simp only [List.length_cons] at hk hfit
    rw [Memory.writeBytes]
    cases k with
    | zero =>
      rw [readByte_writeBytes_outside _ _ _ _ (by omega), Nat.add_zero,
        readByte_writeByte_same _ _ _ (by omega)]
      rfl
    | succ k =>
      rw [← Nat.add_assoc, Nat.add_right_comm, ih _ _ _ (by omega) (by omega)]
      rfl

theorem readBytes_writeBytes (m : Memory) {a : Nat} {bs : List Byte}
    (hfit : a + bs.length ≤ addressCount) :
    Memory.readBytes (Memory.writeBytes m a bs) a bs.length = some bs :=
  readBytes_eq_some_iff.2 ⟨rfl, fun k hk => readByte_writeBytes_inside bs m a k hk hfit⟩

/-- A range that holds two lists one after the other holds each in its place. -/
theorem readBytes_append {m : Memory} {a n : Nat} {bs cs : List Byte}
    (h : Memory.readBytes m a (bs.length + n) = some (bs ++ cs)) :
    Memory.readBytes m a bs.length = some bs ∧
      Memory.readBytes m (a + bs.length) n = some cs := by
  obtain ⟨hlen, hbytes⟩ := readBytes_eq_some_iff.1 h
  refine ⟨readBytes_eq_some_iff.2 ⟨rfl, fun k hk => ?_⟩,
    readBytes_eq_some_iff.2 ⟨by simpa using hlen, fun k hk => ?_⟩⟩
  · rw [hbytes k (by omega), List.getElem?_append_left hk]
  · rw [Nat.add_assoc, hbytes _ (by omega), List.getElem?_append_right (by omega),
      Nat.add_sub_cancel_left]

/-! ### A word placed at the program counter -/

theorem withFetchWord_eq_storeAtPc (s : State) (w : InstrWord) :
    s.withFetchWord 32 w.toNat = storeAtPc s w := by
  rw [State.withFetchWord, Nat.mod_eq_of_lt w.isLt, BitVec.ofNat_toNat, BitVec.setWidth_eq]

theorem wordBytes_length (w : InstrWord) : (wordBytes w).length = 4 := rfl

theorem fetchBytes_storeAtPc {s : State} {w : InstrWord} (h : s.pc.toNat + 4 ≤ addressCount) :
    fetchBytes (storeAtPc s w) = some (wordBytes w) := by
  rw [← wordBytes_length w] at h
  exact readBytes_writeBytes s.mem h

/-- Settles O9: what was written at `pc` reads back, and a write leaves the bytes outside it. -/
theorem placedWordIsFetched : Obligations.PlacedWordIsFetched := by
  intro s w hroom
  rw [withFetchWord_eq_storeAtPc]
  exact ⟨fetchBytes_storeAtPc hroom, rfl, rfl, fun _ => rfl, rfl,
    fun a ha => readByte_writeBytes_outside _ _ _ a ha, wf_storeAtPc s w⟩

/-- Settles O8: the fetch reads a range of four bytes, and one of them is missing. -/
theorem noWordAtPcIsRefused : Obligations.NoWordAtPcIsRefused := by
  rintro s ⟨k, hk, hmissing⟩
  have hfetch : fetchBytes s = none := readBytes_eq_none hk hmissing
  rw [step, hfetch]

end Sys2Proof.Proofs.ByteRanges

/-! The rules every step obeys: what ran, that it was a read if the step completed, and that it changed
nothing if the step did not. -/

namespace Sys2Proof.Proofs.StepRules

open Sys2Proof.Machine
open Sys2Proof.Proofs.AccessorArms
open Sys2Proof.Proofs.Routing
open Sys2Proof.Proofs.Reads

/-- Settles O6: fetch, decode and dispatch, one after the other. -/
theorem stepRunsDecodedInstruction : Obligations.StepRunsDecodedInstruction := by
  intro s bs i hfetch hdecode _
  rw [step, hfetch]
  exact congrArg (issue · s) hdecode

/-! ### Steps that complete -/

theorem step_next_effect {s s' : State} (h : step s = .next s') :
    ∃ t, t ≤ 31 ∧ ReadEffect Config.params t s s' ∧ s'.mem = s.mem := by
  obtain ⟨t, ht, -, rfl⟩ := step_next h
  exact ⟨t, ht, readEffect_of_update _ t s, by simp⟩

theorem step_next_readEnabled {s s' : State} (h : step s = .next s') : readEnabled s = true := by
  obtain ⟨-, -, henabled, -⟩ := step_next h
  exact henabled

theorem step_next_mem {s s' : State} (h : step s = .next s') : s'.mem = s.mem := by
  obtain ⟨-, -, -, hmem⟩ := step_next_effect h
  exact hmem

theorem inv_of_mem_eq {s s' : State} (h : s'.mem = s.mem) (hs : s.Inv) : s'.Inv := by
  rwa [State.Inv, h]

/-- Settles O29, by the inversion of a completed step. -/
theorem everyStepIsARead : Obligations.EveryStepIsARead :=
  fun _ _ h => ⟨step_next_readEnabled h, step_next_effect h⟩

/-- Settles O30: a completed step leaves memory as it was. -/
theorem stepKeepsCanonicalMemory : Obligations.StepKeepsCanonicalMemory :=
  fun _ _ hs h => inv_of_mem_eq (step_next_mem h) hs

/-- Settles O31: an empty list rises. -/
theorem resetMemoryIsCanonical : Obligations.ResetMemoryIsCanonical := wf_reset

/-- Settles O27: a completed step would need a read enabled at EL0. -/
theorem el0NeverCompletes : Obligations.El0NeverCompletes := by
  intro s s' hel h
  have henabled := step_next_readEnabled h
  rw [readEnabled_el0 hel] at henabled
  cases henabled

/-! ### Steps that end abnormally -/

theorem step_fault_left {s : State} {f : Fault} (h : step s = .fault f) : f.left = s := by
  obtain ⟨t, -, hfault⟩ | rfl := step_fault h
  · exact mrsOn_fault_left hfault
  · rfl

/-- Where a read is enabled the accessor does not fault, so a fault is the write form's. -/
theorem step_fault_of_readEnabled {s : State} {f : Fault} (henabled : readEnabled s = true)
    (h : step s = .fault f) : f = .undefined s := by
  obtain ⟨t, ht, hfault⟩ | hundefined := step_fault h
  · rw [mrsOn_of_readEnabled ht henabled] at hfault
    cases hfault
  · exact hundefined

/-- Settles O26, by the two sources of a step's fault. -/
theorem abnormalEndingsArePrecise : Obligations.AbnormalEndingsArePrecise :=
  fun _ _ => step_fault_left

/-- Settles O28: a read is enabled at EL3, where only `Undefined` remains; and each of the routes of a
trap (O25) ends at EL1 or EL2. -/
theorem el3NeitherTrapsNorIsTarget : Obligations.El3NeitherTrapsNorIsTarget := by
  refine ⟨fun s left target code hel h => ?_, fun s left code h => ?_⟩
  · have hundefined := step_fault_of_readEnabled (readEnabled_el2_el3 (.inr hel)) h
    cases hundefined
  · obtain ⟨-, -, -, ⟨-, htarget | htarget⟩ | ⟨-, htarget⟩⟩ := trapsGoStrictlyHigher _ _ _ _ h <;>
      cases htarget

end Sys2Proof.Proofs.StepRules

/-! Runs. First what holds of the runs of any machine of the host's interface, then the frame that every
completed step of this one keeps, carried along a run of `core` and along a run under changing context
inputs; and the straight run of accessor words. -/

namespace Sys2Proof.Proofs.Runs

open Sys2Proof.Machine
open Sys2Proof.Proofs.Encoding
open Sys2Proof.Proofs.RoundTrip
open Sys2Proof.Proofs.AccessorArms
open Sys2Proof.Proofs.ByteRanges
open Sys2Proof.Proofs.StepRules

/-! ### Runs of any machine -/

section AnyMachine

variable {M : Host.Core} {s s' : M.State} {f : M.Fault} {k : Nat}

theorem run_succ_of_step_next (h : M.step s = .next s') : M.run (k + 1) s = M.run k s' := by
  rw [Host.Core.run, h]

theorem run_succ_of_step_fault (h : M.step s = .fault f) : M.run (k + 1) s = .fault f := by
  rw [Host.Core.run, h]

theorem run_succ_next (h : M.run (k + 1) s = .next s') :
    ∃ s₁, M.step s = .next s₁ ∧ M.run k s₁ = .next s' := by
  rw [Host.Core.run] at h
  split at h
  next s₁ hstep => exact ⟨s₁, hstep, h⟩
  next => cases h
  next => cases h

theorem run_succ_fault (h : M.run (k + 1) s = .fault f) :
    M.step s = .fault f ∨ ∃ s₁, M.step s = .next s₁ ∧ M.run k s₁ = .fault f := by
  rw [Host.Core.run] at h
  split at h
  next s₁ hstep => exact .inr ⟨s₁, hstep, h⟩
  next hstep => cases h; exact .inl hstep
  next => cases h

/-- A relation that is reflexive and that a completed step extends at the front relates the ends of every
completed run. -/
theorem run_next_induction {P : M.State → M.State → Prop} (refl : ∀ s, P s s)
    (step : ∀ {s s₁ s'}, M.step s = .next s₁ → P s₁ s' → P s s') :
    ∀ {k s s'}, M.run k s = .next s' → P s s' := by
  intro k
  induction k with
  | zero =>
    intro s s' h
    cases h
    exact refl s
  | succ k ih =>
    intro s s' h
    obtain ⟨s₁, hstep, hrun⟩ := run_succ_next h
    exact step hstep (ih hrun)

/-- The fault a run ends in is that of one step, which completed steps lead up to. -/
theorem run_fault_last_step : ∀ {k : Nat} {s : M.State}, M.run k s = .fault f →
    ∃ j, j < k ∧ ∃ left, M.run j s = .next left ∧ M.step left = .fault f := by
  intro k
  induction k with
  | zero => intro s h; cases h
  | succ k ih =>
    intro s h
    obtain hstep | ⟨s₁, hstep, hrun⟩ := run_succ_fault h
    · exact ⟨0, Nat.succ_pos k, s, rfl, hstep⟩
    · obtain ⟨j, hj, left, hreach, hfault⟩ := ih hrun
      exact ⟨j + 1, Nat.succ_lt_succ hj, left, (run_succ_of_step_next hstep).trans hreach, hfault⟩

/-- More fuel does not change a fault. -/
theorem run_add_fault (m : Nat) : ∀ {k : Nat} {s : M.State}, M.run k s = .fault f →
    M.run (k + m) s = .fault f := by
  intro k
  induction k with
  | zero => intro s h; cases h
  | succ k ih =>
    intro s h
    rw [Nat.add_right_comm]
    obtain hstep | ⟨s₁, hstep, hrun⟩ := run_succ_fault h
    · exact run_succ_of_step_fault hstep
    · exact (run_succ_of_step_next hstep).trans (ih hrun)

end AnyMachine

/-! ### What completed steps leave -/

/-- Memory is as it was, and each register is as it was or holds `IDVAL`. -/
structure OnlyReads (s s' : State) : Prop where
  mem : s'.mem = s.mem
  regs : ∀ i, s'.readX i = s.readX i ∨ s'.readX i = some Config.idval

theorem OnlyReads.refl (s : State) : OnlyReads s s where
  mem := rfl
  regs _ := .inl rfl

theorem OnlyReads.trans {s s₁ s' : State} (h₁ : OnlyReads s s₁) (h₂ : OnlyReads s₁ s') :
    OnlyReads s s' where
  mem := h₂.mem.trans h₁.mem
  regs i := (h₂.regs i).elim (fun hkept => hkept ▸ h₁.regs i) .inr

theorem onlyReads_withContext (s : State) (c : Context) : OnlyReads s (s.withContext c) where
  mem := rfl
  regs _ := .inl rfl

theorem onlyReads_of_step {s s' : State} (h : step s = .next s') : OnlyReads s s' := by
  obtain ⟨t, -, -, rfl⟩ := step_next h
  refine ⟨by simp, fun i => ?_⟩
  rw [advancePc_readX, readX_writeX]
  split
  · exact .inr rfl
  · exact .inl rfl

theorem context_of_step {s s' : State} (h : step s = .next s') : s'.context = s.context := by
  obtain ⟨t, -, heffect, -⟩ := step_next_effect h
  exact heffect.context

theorem onlyReads_of_run {k : Nat} {s s' : State} (h : core.run k s = .next s') : OnlyReads s s' :=
  run_next_induction (M := core) (P := OnlyReads) OnlyReads.refl
    (fun hstep hrest => (onlyReads_of_step hstep).trans hrest) h

theorem context_of_run {k : Nat} {s s' : State} (h : core.run k s = .next s') :
    s'.context = s.context :=
  run_next_induction (M := core) (P := fun s s' : State => s'.context = s.context) (fun _ => rfl)
    (fun hstep hrest => hrest.trans (context_of_step hstep)) h

theorem onlyReads_of_runUnder : ∀ {cs : List Context} {s s' : State},
    runUnder cs s = .next s' → OnlyReads s s' := by
  intro cs
  induction cs with
  | nil =>
    intro s s' h
    cases h
    exact OnlyReads.refl s
  | cons c cs ih =>
    intro s s' h
    rw [runUnder] at h
    split at h
    next s₁ hstep =>
      exact ((onlyReads_withContext s c).trans (onlyReads_of_step hstep)).trans (ih h)
    next => cases h
    next => cases h

/-- Settles O32: along the run a register keeps what it held or takes `IDVAL`, so what holds of both
holds of every register at the end. -/
theorem onlyIdvalEntersRegisters : Obligations.OnlyIdvalEntersRegisters := by
  intro Good hidval cs s s' hregs hrun
  have hreads := onlyReads_of_runUnder hrun
  refine ⟨fun i v hv => ?_, hreads.mem, inv_of_mem_eq hreads.mem⟩
  obtain hkept | hread := hreads.regs i
  · exact hregs i v (hkept.symm.trans hv)
  · obtain rfl : Config.idval = v := Option.some.inj (hread.symm.trans hv)
    exact hidval

/-! ### Runs that end abnormally -/

/-- Whether a read is enabled is a matter of the context inputs alone (R9). -/
theorem readEnabled_congr {s s' : State} (h : s'.context = s.context) :
    readEnabled s' = readEnabled s := by
  obtain ⟨hel, hen, -, htid3⟩ : s'.el = s.el ∧ s'.el2En = s.el2En ∧ s'.hcrTge = s.hcrTge ∧
      s'.hcrTid3 = s.hcrTid3 := by simpa [State.context] using h
  rw [readEnabled, readEnabled, hel, hen, htid3]

/-- Once a step of a run has completed, reads are enabled for the rest of it. -/
theorem readEnabled_of_run_pos {j : Nat} {s s' : State} (hj : 0 < j) (h : core.run j s = .next s') :
    readEnabled s' = true := by
  obtain ⟨k, rfl⟩ := Nat.exists_eq_succ_of_ne_zero hj.ne'
  obtain ⟨s₁, hstep, -⟩ := run_succ_next (M := core) h
  rw [readEnabled_congr (context_of_run h)]
  exact step_next_readEnabled hstep

/-- Settles O34: the run's fault is one step's (`run_fault_last_step`), which leaves the state it began
in, and the completed steps before it only read. -/
theorem abnormalOutcomeIsFinal : Obligations.AbnormalOutcomeIsFinal := by
  intro k s f hrun
  obtain ⟨j, hj, left, hreach, hfault⟩ := run_fault_last_step (M := core) hrun
  obtain rfl : f.left = left := step_fault_left hfault
  have hreads := onlyReads_of_run hreach
  exact ⟨hfault, fun m => run_add_fault (M := core) m hrun, context_of_run hreach, hreads.mem,
    hreads.regs, j, hj, hreach,
    fun hpos => step_fault_of_readEnabled (readEnabled_of_run_pos hpos hreach) hfault⟩

/-! ### Runs of accessor words -/

theorem encodeBytes_length (i : Instr) : (encodeBytes i).length = 4 := rfl

/-- An accessor word at `pc` reads, where a read is enabled. -/
theorem step_accessor {s : State} {t : Nat} (ht : t ≤ 31) (henabled : readEnabled s = true)
    (hfetch : fetchBytes s = some (encodeBytes (.mrs t))) :
    step s = .next (s.writeX t Config.idval).advancePc := by
  rw [step_of_fetchBytes hfetch, decodeWord_encode ((wellFormed_mrs t).2 ht)]
  exact mrsOn_of_readEnabled ht henabled

/-- What `ts`, the destinations of a straight run of reads from `s`, make of the state. -/
structure ReadsEffect (ts : List Nat) (s s' : State) : Prop where
  pc : s'.pc = s.pc + BitVec.ofNat 64 (4 * ts.length)
  regs : ∀ i, i ≤ 30 → s'.readX i = if i ∈ ts then some Config.idval else s.readX i
  context : s'.context = s.context
  mem : s'.mem = s.mem
  freeDraws : s'.freeDraws = s.freeDraws

theorem readsEffect_nil (s : State) : ReadsEffect [] s s where
  pc := by simp
  regs i _ := by simp
  context := rfl
  mem := rfl
  freeDraws := rfl

theorem readsEffect_cons {t : Nat} {ts : List Nat} {s s' : State}
    (hfits : s.pc.toNat + 4 < addressCount)
    (h : ReadsEffect ts (s.writeX t Config.idval).advancePc s') : ReadsEffect (t :: ts) s s' := by
  obtain ⟨hpc, hdraws⟩ := advancePc_of_fits (s.writeX t Config.idval) (by simpa using hfits)
  refine ⟨?pc, fun i hi => ?regs, by simp [h.context], by simp [h.mem], by simp [h.freeDraws, hdraws]⟩
  case pc =>
    rw [h.pc, hpc, writeX_pc, List.length_cons, BitVec.add_assoc, Nat.mul_succ, Nat.add_comm,
      BitVec.ofNat_add]
  case regs =>
    have hlt : i < 31 := Nat.lt_succ_of_le hi
    rw [h.regs i hi, advancePc_readX, readX_writeX]
    by_cases hit : i = t
    · subst hit
      simp [hlt]
    · simp [hit]

/-- The first word is fetched at `pc`; the rest of the run is the induction's, from 4 on. -/
theorem run_accessor_words : ∀ {ts : List Nat} {s : State}, (∀ t ∈ ts, t ≤ 31) →
    readEnabled s = true → s.pc.toNat + 4 * ts.length < addressCount →
    Memory.readBytes s.mem s.pc.toNat (4 * ts.length) =
      some (ts.flatMap fun t => encodeBytes (.mrs t)) →
    ∃ s', core.run ts.length s = .next s' ∧ ReadsEffect ts s s' := by
  intro ts
  induction ts with
  | nil => exact fun _ _ _ _ => ⟨_, rfl, readsEffect_nil _⟩
  | cons t ts ih =>
    intro s hts henabled hroom hwords
    rw [List.length_cons, Nat.mul_succ] at hroom
    rw [List.length_cons, Nat.mul_succ, Nat.add_comm, List.flatMap_cons] at hwords
    obtain ⟨hfirst, hrest⟩ := readBytes_append (bs := encodeBytes (.mrs t)) hwords
    have hstep := step_accessor (hts t List.mem_cons_self) henabled hfirst
    have hfits : s.pc.toNat + 4 < addressCount := by omega
    have hpc : (s.writeX t Config.idval).advancePc.pc.toNat = s.pc.toNat + 4 := by
      obtain ⟨hadvance, -⟩ := advancePc_of_fits (s.writeX t Config.idval) (by simpa using hfits)
      rw [hadvance, writeX_pc, BitVec.toNat_add]
      exact Nat.mod_eq_of_lt hfits
    obtain ⟨s', hrun, heffect⟩ := ih (s := (s.writeX t Config.idval).advancePc)
      (fun u hu => hts u (List.mem_cons_of_mem t hu)) (by simpa using henabled)
      (by rw [hpc]; omega) (by rw [hpc]; simpa [encodeBytes_length] using hrest)
    exact ⟨s', (run_succ_of_step_next (M := core) hstep).trans hrun, readsEffect_cons hfits heffect⟩

/-- Settles O33, by induction on the words. -/
theorem runOfAccessorWordsCompletes : Obligations.RunOfAccessorWordsCompletes := by
  intro ts s hts henabled hroom hwords
  obtain ⟨s', hrun, heffect⟩ := run_accessor_words hts henabled hroom hwords
  exact ⟨s', hrun, heffect.pc, heffect.regs, heffect.context, heffect.mem, heffect.freeDraws⟩

end Sys2Proof.Proofs.Runs

/-! The register's values (R16 to R35, R97): which are well formed and how many they are, the refused
field, what a version permits, and what a value says. -/

namespace Sys2Proof.Proofs.FieldValues

open Sys2Proof.Machine
open Sys2Proof.Proofs.FieldLayout
open Sys2Proof.Proofs.FieldInverse
open Sys2Proof.Proofs.PermittedTable

/-! ### Well-formed values -/

theorem mem_defined_specSei (haveRAS : Bool) (n : Nat) :
    n ∈ defined haveRAS .specSei ↔ if haveRAS then n ∈ [0, 1] else n = 0 := by
  cases haveRAS <;> simp [defined]

/-- Settles O38: `WF` field by field, each field being its slice. -/
theorem wfIsEverySliceDefined : Obligations.WfIsEverySliceDefined := by
  intro haveRAS v
  simp only [wf_iff, fieldOf_eq_slice, forall_idField, mem_defined_specSei]
  exact Iff.rfl

theorem defined_le (haveRAS : Bool) (f : IdField) : ∀ n ∈ defined haveRAS f, n ≤ 3 := by
  cases haveRAS <;> cases f <;> decide

theorem defined_nodup (haveRAS : Bool) (f : IdField) : (defined haveRAS f).Nodup := by
  cases haveRAS <;> cases f <;> decide

theorem allFields_nodup : allFields.Nodup := by decide

/-- R74's two inverses: the well-formed values are those assembled from defined field values. -/
theorem setOf_wf_eq_image (haveRAS : Bool) :
    {v : Word | wf haveRAS v = true} = assemble '' {g | ∀ f, g f ∈ defined haveRAS f} := by
  ext v
  constructor
  · exact fun hwf => ⟨_, (wf_iff haveRAS v).1 hwf, assemble_fieldOf v⟩
  · rintro ⟨g, hg, rfl⟩
    refine (wf_iff haveRAS _).2 fun f => ?_
    rw [fieldOf_assemble fun f => (defined_le haveRAS f _ (hg f)).trans (by decide)]
    exact hg f

theorem assemble_injOn (haveRAS : Bool) :
    Set.InjOn assemble {g | ∀ f, g f ∈ defined haveRAS f} := by
  intro g hg h hh heq
  have hle {g : IdField → Nat} (hg : ∀ f, g f ∈ defined haveRAS f) (f : IdField) : g f ≤ 15 :=
    (defined_le haveRAS f _ (hg f)).trans (by decide)
  funext f
  rw [← fieldOf_assemble (hle hg) f, heq, fieldOf_assemble (hle hh) f]

/-- The fields' values are chosen independently, so the counts multiply. -/
theorem ncard_wf (haveRAS : Bool) :
    {v : Word | wf haveRAS v = true}.ncard =
      (allFields.map fun f => (defined haveRAS f).length).prod := by
  let _ : Fintype IdField := Fintype.ofList allFields mem_allFields
  have hchoices : {g : IdField → Nat | ∀ f, g f ∈ defined haveRAS f} =
      (Fintype.piFinset fun f => (defined haveRAS f).toFinset : Set (IdField → Nat)) := by
    ext g
    simp
  have huniv : (Finset.univ : Finset IdField) = allFields.toFinset := rfl
  rw [setOf_wf_eq_image, (assemble_injOn haveRAS).ncard_image, hchoices,
    Set.ncard_coe_finset, Fintype.card_piFinset, huniv, List.prod_toFinset _ allFields_nodup]
  simp only [List.toFinset_card_of_nodup (defined_nodup haveRAS _)]

/-- Settles O39: thirteen fields have two defined values (twelve without FEAT_RAS), HPDS has three, and
PAN and HAFDBS have four. -/
theorem wfValueCount : Obligations.WfValueCount :=
  ⟨(ncard_wf true).trans (by decide), (ncard_wf false).trans (by decide)⟩

/-! ### The refused field -/

theorem fieldDefined_iff (haveRAS : Bool) (v : Word) (f : IdField) :
    fieldDefined haveRAS v f = true ↔ fieldOf f v ∈ defined haveRAS f :=
  List.contains_iff_mem

theorem refusedField_eq_none_iff (p : Config.Params) : refusedField p = none ↔ admitted p := by
  rw [refusedField, List.find?_eq_none, admitted, wf, List.all_eq_true]
  simp

/-- R14 lists the fields from the most significant down. -/
theorem allFields_falling : allFields.Pairwise fun f g => lsb g < lsb f := by decide

theorem refusedField_some {p : Config.Params} {f : IdField} (h : refusedField p = some f) :
    fieldOf f p.idval ∉ defined p.haveRAS f ∧
      ∀ g, lsb f < lsb g → fieldOf g p.idval ∈ defined p.haveRAS g := by
  obtain ⟨hf, before, after, hsplit, hbefore⟩ := List.find?_eq_some_iff_append.1 h
  refine ⟨fun hdef => by simp [(fieldDefined_iff _ _ _).2 hdef] at hf, fun g hg => ?_⟩
  have hfall := allFields_falling
  rw [hsplit, List.pairwise_append, List.pairwise_cons] at hfall
  obtain ⟨-, ⟨hafter, -⟩, -⟩ := hfall
  have hmem := mem_allFields g
  rw [hsplit, List.mem_append, List.mem_cons] at hmem
  obtain hmem | rfl | hmem := hmem
  · exact (fieldDefined_iff _ _ _).1 (by simpa using hbefore g hmem)
  · exact absurd hg (Nat.lt_irrefl _)
  · exact absurd hg (Nat.lt_asymm (hafter g hmem))

/-- Settles O40: the search from the top stops at the first undefined field. -/
theorem refusedFieldIsTheFirstUndefined : Obligations.RefusedFieldIsTheFirstUndefined :=
  fun p => ⟨refusedField_eq_none_iff p, fun _ => refusedField_some⟩

/-! ### Permitted values and `VMIDWidth` -/

/-- The rows of R35 for a later version imply those for an earlier one. A row that starts at a version
starts later than the earlier one or holds of both; ETS and PAN have rows that end. -/
theorem rows_antitone {k k' : Nat} (hk : k ≤ k') {haveEL2 haveFP : Bool} {n : Nat} {f : IdField}
    (h : Rows k' haveEL2 haveFP n f) : Rows k haveEL2 haveFP n f := by
  cases f with
  | ntlbpa | specSei | hafdbs => exact h
  | ets =>
    simp only [Rows, List.mem_cons, List.not_mem_nil, or_false] at h ⊢
    omega
  | pan =>
    simp only [Rows, List.mem_cons, List.not_mem_nil, or_false] at h ⊢
    omega
  | ecbhb | cmow | tidcp1 | afp | hcx | twed | xnx | lo | hpds | vh | vmidBits =>
    exact fun hrow => h (hrow.trans hk)

/-- Settles O42, row by row. -/
theorem permittedOnlyTightens : Obligations.PermittedOnlyTightens := by
  intro v old new haveEL2 haveFP hle hnew
  rw [permitted_iff_rows] at hnew ⊢
  exact fun f => rows_antitone hle (hnew f)

theorem vmidWidth_eq (v : Word) :
    vmidWidth v =
      if fieldOf .vmidBits v = 0 then some 8
      else if fieldOf .vmidBits v = 2 then some 16 else none := by
  unfold vmidWidth
  split
  next h => simp [h]
  next h => simp [h]
  next h0 h2 => rw [if_neg h0, if_neg h2]

theorem vmidWidth_isSome_of_wf {haveRAS : Bool} {v : Word} (h : wf haveRAS v = true) :
    (vmidWidth v).isSome = true := by
  have hdef : fieldOf .vmidBits v = 0 ∨ fieldOf .vmidBits v = 2 := by
    simpa [defined] using (wf_iff haveRAS v).1 h .vmidBits
  obtain h0 | h2 := hdef
  · simp [vmidWidth_eq, h0]
  · simp [vmidWidth_eq, h2]

/-- Settles O43: the cases of `VMIDWidth`, and that VMIDBits is defined in a well-formed value. -/
theorem vmidWidthByVmidBits : Obligations.VmidWidthByVmidBits := by
  refine ⟨fun v => ?_, fun _ _ => vmidWidth_isSome_of_wf⟩
  rw [vmidWidth_eq, fieldOf_eq_slice]
  rfl

/-! ### What a value says -/

/-- A value says something exactly when it is defined, above 3 by no field. SpecSEI alone looks at the
PE. -/
theorem isSome_meanings (p : Config.Params) (f : IdField) (n : Nat) :
    (meanings p f n).isSome = (defined p.haveRAS f).contains n := by
  obtain ⟨_, _, haveRAS, _, _, _⟩ := p
  match n with
  | 0 | 1 | 2 | 3 | n + 4 => cases haveRAS <;> cases f <;> rfl

theorem isSome_meanings_iff (p : Config.Params) (f : IdField) (n : Nat) :
    (meanings p f n).isSome = true ↔ n ∈ defined p.haveRAS f := by
  rw [isSome_meanings, List.contains_iff_mem]

theorem le_of_meanings {p : Config.Params} {f : IdField} {n : Nat} {ms : List Meaning}
    (h : meanings p f n = some ms) : n ≤ 3 :=
  defined_le p.haveRAS f n ((isSome_meanings_iff p f n).1 (Option.isSome_of_eq_some h))

theorem promises_specSei_iff {p : Config.Params} {n : Nat} {ms : List Meaning} {m : Meaning}
    (h : meanings p .specSei n = some ms) (hm : m ∈ ms) : promises m = false ↔ n = 1 := by
  match n with
  | 0 =>
    obtain rfl := Option.some.inj h
    cases hras : p.haveRAS <;> simp_all [promises]
  | 1 =>
    obtain ⟨-, rfl⟩ : p.haveRAS = true ∧ [Meaning.specSErrorMight] = ms := by simpa [meanings] using h
    simp_all [promises]
  | n + 2 => cases h

/-- The sentences that promise nothing (R97), field by field. -/
theorem promises_iff {p : Config.Params} {f : IdField} {n : Nat} {ms : List Meaning} {m : Meaning}
    (h : meanings p f n = some ms) (hm : m ∈ ms) :
    promises m = false ↔
      (f = .ecbhb ∧ n = 0) ∨ (f = .ntlbpa ∧ n = 0) ∨ (f = .specSei ∧ n = 1) := by
  have hn := le_of_meanings h
  have hsmall : n = 0 ∨ n = 1 ∨ n = 2 ∨ n = 3 := by omega
  cases f with
  | specSei => simpa using promises_specSei_iff h hm
  | _ =>
    revert m
    obtain rfl | rfl | rfl | rfl := hsmall <;> cases h <;> simp [promises]

theorem meanings_vmidBits (p : Config.Params) (n : Nat) :
    meanings p .vmidBits n =
      if n = 0 then some [.vmid8Bits] else if n = 2 then some [.vmid16Bits] else none := by
  match n with
  | 0 | 1 | 2 => rfl
  | n + 3 => simp [meanings]

/-- Settles O44: definedness, R97's three sentences, and VMIDBits by its three cases. -/
theorem whatAReaderMayConclude : Obligations.WhatAReaderMayConclude := by
  refine ⟨isSome_meanings_iff, fun p f n ms m => promises_iff, fun p n => ?_⟩
  rw [meanings_vmidBits]
  split_ifs with h0 h2
  · simp [h0]
  · simp [h2]
  · simp [h0, h2]

/-- What the positive values of PAN, HPDS and HAFDBS say, one more sentence with each value: "As … and
adds" (R28, R31, C4), and R26's table. -/
def addedSentences : IdField → List Meaning
  | .pan => [.panSupported, .atPanInstructionsSupported, .epanBitsSupported]
  | .hpds => [.hierarchicalDisableSupported, .descriptorBitsPossiblyAllocated]
  | .hafdbs => [.accessFlagBlockPageUpdate, .dirtyStateUpdate, .accessFlagTableUpdate]
  | _ => []

theorem meanings_eq_take {p : Config.Params} {f : IdField} (hf : f = .pan ∨ f = .hpds ∨ f = .hafdbs)
    {n : Nat} (hn : 1 ≤ n) {ms : List Meaning} (h : meanings p f n = some ms) :
    ms = (addedSentences f).take n := by
  have hle := le_of_meanings h
  have hsmall : n = 1 ∨ n = 2 ∨ n = 3 := by omega
  obtain rfl | rfl | rfl := hf
  all_goals obtain rfl | rfl | rfl := hsmall <;> cases h <;> rfl

/-- Settles O45: the lower value's sentences are the first of the higher one's. -/
theorem higherValuesAddMeanings : Obligations.HigherValuesAddMeanings := by
  intro p f hf m n low high hm hmn hlow hhigh
  rw [meanings_eq_take hf hm hlow, meanings_eq_take hf (hm.trans hmn) hhigh]
  exact List.take_prefix_take_left hmn

/-- Settles O46: R34's table, row by row. No row is SpecSEI's, so FEAT_RAS does not matter. -/
theorem featureValuesAreDefined : Obligations.FeatureValuesAreDefined := by
  intro haveRAS x
  cases x <;> simp [featureRow, defined]

end Sys2Proof.Proofs.FieldValues
